-- ==== Sys2Proof/Word.lean ====
section
/-! DEFINITION. Words, line levels, samples and frames: the plain data of the decoder (00_scope.md R8, 10_state.md R15, R25). -/

namespace Sys2Proof

/-- A host register word (R26, R41). -/
abbrev Word := BitVec 32

/-- The width of `HUM` and `TEMP` (R17, R18). -/
abbrev Half := BitVec 16

/-- One frame byte (R15). -/
abbrev Byte := BitVec 8

/-- A level of the line (R8). -/
inductive Level where
  | low
  | high
  deriving DecidableEq, Repr, Inhabited

/-- `not L` is the other level (R8). -/
def Level.not : Level → Level
  | .low => .high
  | .high => .low

/-- `HIGH` is the bit 1 and `LOW` the bit 0 wherever a level is stored or driven (R8). -/
def Level.bit : Level → BitVec 1
  | .low => 0#1
  | .high => 1#1

/-- An EdgeSample: one observed pulse (R25, R72). -/
structure Sample where
  level : Level
  duration : Nat
  deriving DecidableEq, Repr, Inhabited

/-- The BitFrame: `byte[0]` to `byte[4]` (R15). -/
structure Frame where
  b0 : Byte
  b1 : Byte
  b2 : Byte
  b3 : Byte
  b4 : Byte
  deriving DecidableEq, Repr

/-- The five bytes all `0x00` (R32, R91, R140). -/
def Frame.zero : Frame := ⟨0#8, 0#8, 0#8, 0#8, 0#8⟩

end Sys2Proof
end

