-- ==== Sys2Proof/Config.lean ====
section
/-! DEFINITION. The implementation parameters of 00_scope.md R6 and the free values the spec leaves open. -/

namespace Sys2Proof

/-- `PREAMBLE`: captured samples discarded before bit extraction (R6). -/
abbrev preamble : Nat := 4

/-- `FRAME_BITS`: most bits a frame holds (R6). -/
abbrev frameBits : Nat := 40

/-- `MIN_BITS`: fewest bits of a usable frame (R6). -/
abbrev minBits : Nat := 39

/-- The configuration record of R6. The three parameters the document gives a number for have it as default.
`tPollNs` is `T_POLL` in whole nanoseconds (DESIGN CHOICE, log 3: safe, no rule reads it). -/
structure Config where
  wakeHighTicks : Nat
  wakeLowTicks : Nat
  respCap : Nat
  edgeCap : Nat := 1000
  maxEdges : Nat := 100
  bitThreshold : Nat := 200
  tPollNs : Nat
  base : Nat
  deriving DecidableEq, Repr

/-- The constraints of R6 on each parameter by itself. -/
abbrev Config.Valid (c : Config) : Prop :=
  1 ≤ c.wakeHighTicks ∧ 1 ≤ c.wakeLowTicks ∧ 1 ≤ c.respCap ∧ 1 ≤ c.edgeCap ∧ 1 ≤ c.maxEdges ∧
    0 < c.tPollNs ∧ c.base % 4 = 0

/-- The wall-clock constraints of R6 and R114: at least 500 ms HIGH and at least 20 ms LOW. They bind the
configuration, not the step (log 19). -/
abbrev Config.MeetsWakeTimes (c : Config) : Prop :=
  500000000 ≤ c.wakeHighTicks * c.tPollNs ∧ 20000000 ≤ c.wakeLowTicks * c.tPollNs

/-- Fewest ticks of `tPollNs` nanoseconds that last `ns` nanoseconds (R114). -/
def Config.ticksFor (ns tPollNs : Nat) : Nat := (ns + tPollNs - 1) / tPollNs

/-- Free value: what `T_POLL` exceeds one nanosecond by (R6 leaves it OPEN; log 1). -/
opaque Config.freePoll : Nat

/-- Free value: what `WAKE_HIGH_TICKS` exceeds its least value by (R6, OPEN; log 1). -/
opaque Config.freeWakeHigh : Nat

/-- Free value: what `WAKE_LOW_TICKS` exceeds its least value by (R6, OPEN; log 1). -/
opaque Config.freeWakeLow : Nat

/-- Free value: what `RESP_CAP` exceeds 1 by (R6, OPEN; log 1). -/
opaque Config.freeResp : Nat

/-- Free value: `BASE` in words (R6, R44, OPEN; log 1). -/
opaque Config.freeBase : Nat

/-- Free value: the level of the line at a tick whose script entry does not give one (R12, U7; log 5). -/
opaque Config.freeLin : Nat → Level

/-- Free value: what entry `i` of the sample buffer is made from after a reset at tick `t` (R32, U5; log 7). -/
opaque Config.freeSample : Nat → Nat → Sample

/-- The configuration of `State.reset`: the document's three defaults (DESIGN CHOICE, log 2: unsafe for a
claim about `State.reset` alone) and free values that meet the constraints of R6 (DESIGN CHOICE, log 1: safe). -/
def Config.free : Config where
  wakeHighTicks := Config.ticksFor 500000000 (Config.freePoll + 1) + Config.freeWakeHigh
  wakeLowTicks := Config.ticksFor 20000000 (Config.freePoll + 1) + Config.freeWakeLow
  respCap := Config.freeResp + 1
  tPollNs := Config.freePoll + 1
  base := 4 * Config.freeBase

end Sys2Proof
end

