-- ==== Sys2Proof/Syntax.lean ====
section
/-! DEFINITION. The instruction set: one constructor per row of opcode_table.json (30_encoding.md R62), and what selects one. -/

namespace Sys2Proof

/-- The sequencer's phases (10_state.md R13). -/
inductive Phase where
  | idle
  | wakeHigh
  | wakeLow
  | waitResp
  | capture
  | extract
  | check
  | interpret
  deriving DecidableEq, Repr

/-- The code of a phase in the 4-bit `phase` register (R13, R74). -/
def Phase.code : Phase → BitVec 4
  | .idle => 0
  | .wakeHigh => 1
  | .wakeLow => 2
  | .waitResp => 3
  | .capture => 4
  | .extract => 5
  | .check => 6
  | .interpret => 7

/-- The instructions: the rows of opcode_table.json, in its order. -/
inductive Instr where
  | readDht11
  | readDht22
  | readAm2302
  | readOther (v : Word)
  | rdCmd
  | rdStatus
  | rdHum
  | rdTemp
  | rdType
  | wrStatus (v : Word)
  | wrHum (v : Word)
  | wrTemp (v : Word)
  | wrType (v : Word)
  | reset
  | nop
  | phIdle
  | phWakeHigh
  | phWakeLow
  | phWaitResp
  | phCapture
  | phExtract
  | phCheck
  | phInterpret
  deriving DecidableEq, Repr

/-- The phase rule's instruction (R13, column "rule that acts"). -/
def Phase.instr : Phase → Instr
  | .idle => .phIdle
  | .wakeHigh => .phWakeHigh
  | .wakeLow => .phWakeLow
  | .waitResp => .phWaitResp
  | .capture => .phCapture
  | .extract => .phExtract
  | .check => .phCheck
  | .interpret => .phInterpret

/-- The host operation of a tick (R10). The access size is kept so that the reserved sizes of R41 can be
written down (DESIGN CHOICE, log 17: safe, they are refused). -/
inductive HostOp where
  | none
  | read (off : Word) (size : Nat)
  | write (off : Word) (size : Nat) (v : Word)
  deriving DecidableEq, Repr

/-- The inputs of one tick (R10). `lin = none`: the script does not say, the level is a free value (log 5). -/
structure TickIn where
  rst : Bool
  hop : HostOp
  lin : Option Level
  deriving DecidableEq, Repr

/-- What selects an instruction (R62): the host side of a tick for the classes PIN, CMDW, REGR and REGW, the
`phase` register for the class PHASE. -/
inductive Code where
  | tick (rst : Bool) (hop : HostOp)
  | phase (code : BitVec 4)
  deriving DecidableEq, Repr

/-- The five classes of R62. -/
inductive OpClass where
  | cmdw
  | regr
  | regw
  | pin
  | phase
  deriving DecidableEq, Repr

/-- The row's name in opcode_table.json. -/
def Instr.mnemonic : Instr → String
  | .readDht11 => "READ.DHT11"
  | .readDht22 => "READ.DHT22"
  | .readAm2302 => "READ.AM2302"
  | .readOther _ => "READ.OTHER"
  | .rdCmd => "RD.CMD"
  | .rdStatus => "RD.STATUS"
  | .rdHum => "RD.HUM"
  | .rdTemp => "RD.TEMP"
  | .rdType => "RD.TYPE"
  | .wrStatus _ => "WR.STATUS"
  | .wrHum _ => "WR.HUM"
  | .wrTemp _ => "WR.TEMP"
  | .wrType _ => "WR.TYPE"
  | .reset => "RESET"
  | .nop => "NOP"
  | .phIdle => "PH.IDLE"
  | .phWakeHigh => "PH.WAKE_HIGH"
  | .phWakeLow => "PH.WAKE_LOW"
  | .phWaitResp => "PH.WAIT_RESP"
  | .phCapture => "PH.CAPTURE"
  | .phExtract => "PH.EXTRACT"
  | .phCheck => "PH.CHECK"
  | .phInterpret => "PH.INTERPRET"

end Sys2Proof
end

