-- ==== Sys2Proof/WellFormed.lean ====
section
/-! DEFINITION. Which instruction terms stand for words of the table (30_encoding.md R61, R62). -/

namespace Sys2Proof

/-- `READ.OTHER` carries only a value no earlier CMDW row matches (R62, R104); every other term stands for a word. -/
def Instr.wellFormed : Instr → Bool
  | .readOther v => v != 11#32 && v != 22#32 && v != 2302#32
  | .readDht11 | .readDht22 | .readAm2302 => true
  | .rdCmd | .rdStatus | .rdHum | .rdTemp | .rdType => true
  | .wrStatus _ | .wrHum _ | .wrTemp _ | .wrType _ => true
  | .reset | .nop => true
  | .phIdle | .phWakeHigh | .phWakeLow | .phWaitResp => true
  | .phCapture | .phExtract | .phCheck | .phInterpret => true

end Sys2Proof
end

