-- ==== Sys2Proof/Decode.lean ====
section
/-! DEFINITION. Decoding what selects an instruction, encoding an instruction, and opcode_table.json as rows
(30_encoding.md R60 to R62, R74, R81; 20_memory.md R41, R42). -/

namespace Sys2Proof

/-- Why a code selects no instruction. -/
inductive Reject where
  /-- A host access whose size is not 4 (R41, U1). -/
  | reservedSize (size : Nat)
  /-- A host access at an offset that is not a multiple of 4 (R41, U1). -/
  | misalignedOffset (off : Word)
  /-- A host access at an offset other than the five of R42 (U2). -/
  | reservedOffset (off : Word)
  /-- A `phase` code 8 to 15 (R74, U3). -/
  | unusedPhase (code : BitVec 4)
  deriving DecidableEq, Repr

/-- The phase a code stands for, none for 8 to 15 (R13, R74). -/
def phaseOf (code : BitVec 4) : Option Phase :=
  match code.toNat with
  | 0 => some .idle
  | 1 => some .wakeHigh
  | 2 => some .wakeLow
  | 3 => some .waitResp
  | 4 => some .capture
  | 5 => some .extract
  | 6 => some .check
  | 7 => some .interpret
  | _ => none

/-- Class CMDW: the value written to `CMD`; all 32 bits are compared (R60, R61). -/
def decodeCommand (v : Word) : Instr :=
  if v = 11#32 then .readDht11
  else if v = 22#32 then .readDht22
  else if v = 2302#32 then .readAm2302
  else .readOther v

/-- Class REGR: the offset read (R42, R62). -/
def decodeRead (off : Word) : Except Reject Instr :=
  if off = 0x00#32 then .ok .rdCmd
  else if off = 0x04#32 then .ok .rdStatus
  else if off = 0x08#32 then .ok .rdHum
  else if off = 0x0C#32 then .ok .rdTemp
  else if off = 0x10#32 then .ok .rdType
  else .error (.reservedOffset off)

/-- Classes CMDW and REGW: the offset written (R42, R62). -/
def decodeWrite (off v : Word) : Except Reject Instr :=
  if off = 0x00#32 then .ok (decodeCommand v)
  else if off = 0x04#32 then .ok (.wrStatus v)
  else if off = 0x08#32 then .ok (.wrHum v)
  else if off = 0x0C#32 then .ok (.wrTemp v)
  else if off = 0x10#32 then .ok (.wrType v)
  else .error (.reservedOffset off)

/-- Every access is one aligned 32-bit word (R41). -/
def checkAccess (off : Word) (size : Nat) : Except Reject Unit :=
  if size = 4 then
    if off.toNat % 4 = 0 then .ok () else .error (.misalignedOffset off)
  else .error (.reservedSize size)

/-- The host operation's instruction at a tick without reset (R62). -/
def decodeHop : HostOp → Except Reject Instr
  | .none => .ok .nop
  | .read off size =>
    match checkAccess off size with
    | .ok _ => decodeRead off
    | .error e => .error e
  | .write off size v =>
    match checkAccess off size with
    | .ok _ => decodeWrite off v
    | .error e => .error e

/-- The sequencer's instruction (class PHASE). -/
def decodePhase (code : BitVec 4) : Except Reject Instr :=
  match phaseOf code with
  | some p => .ok p.instr
  | none => .error (.unusedPhase code)

/-- The decoder. With `rst = 1` the tick's `hop` is ignored (R11, R210). -/
def decode : Code → Except Reject Instr
  | .tick true _ => .ok .reset
  | .tick false hop => decodeHop hop
  | .phase code => decodePhase code

/-- The encoder, from the encodings of R61, R62 and R13. -/
def encode : Instr → Code
  | .readDht11 => .tick false (.write 0x00 4 0x0000000B)
  | .readDht22 => .tick false (.write 0x00 4 0x00000016)
  | .readAm2302 => .tick false (.write 0x00 4 0x000008FE)
  | .readOther v => .tick false (.write 0x00 4 v)
  | .rdCmd => .tick false (.read 0x00 4)
  | .rdStatus => .tick false (.read 0x04 4)
  | .rdHum => .tick false (.read 0x08 4)
  | .rdTemp => .tick false (.read 0x0C 4)
  | .rdType => .tick false (.read 0x10 4)
  | .wrStatus v => .tick false (.write 0x04 4 v)
  | .wrHum v => .tick false (.write 0x08 4 v)
  | .wrTemp v => .tick false (.write 0x0C 4 v)
  | .wrType v => .tick false (.write 0x10 4 v)
  | .reset => .tick true .none
  | .nop => .tick false .none
  | .phIdle => .phase 0
  | .phWakeHigh => .phase 1
  | .phWakeLow => .phase 2
  | .phWaitResp => .phase 3
  | .phCapture => .phase 4
  | .phExtract => .phase 5
  | .phCheck => .phase 6
  | .phInterpret => .phase 7

/-- One row of opcode_table.json (R81): the class, and the match and mask of its selecting field. -/
structure Row where
  mnemonic : String
  cls : OpClass
  pat : Nat
  mask : Nat
  deriving DecidableEq, Repr

/-- opcode_table.json, in file order (R81). -/
def opcodeTable : List Row :=
  [⟨"READ.DHT11", .cmdw, 0x0000000B, 0xFFFFFFFF⟩, ⟨"READ.DHT22", .cmdw, 0x00000016, 0xFFFFFFFF⟩,
   ⟨"READ.AM2302", .cmdw, 0x000008FE, 0xFFFFFFFF⟩, ⟨"READ.OTHER", .cmdw, 0, 0⟩] ++
  [⟨"RD.CMD", .regr, 0x00, 0xFFFFFFFF⟩, ⟨"RD.STATUS", .regr, 0x04, 0xFFFFFFFF⟩,
   ⟨"RD.HUM", .regr, 0x08, 0xFFFFFFFF⟩, ⟨"RD.TEMP", .regr, 0x0C, 0xFFFFFFFF⟩,
   ⟨"RD.TYPE", .regr, 0x10, 0xFFFFFFFF⟩] ++
  [⟨"WR.STATUS", .regw, 0x04, 0xFFFFFFFF⟩, ⟨"WR.HUM", .regw, 0x08, 0xFFFFFFFF⟩,
   ⟨"WR.TEMP", .regw, 0x0C, 0xFFFFFFFF⟩, ⟨"WR.TYPE", .regw, 0x10, 0xFFFFFFFF⟩] ++
  [⟨"RESET", .pin, 1, 1⟩, ⟨"NOP", .pin, 0, 1⟩] ++
  [⟨"PH.IDLE", .phase, 0, 0xF⟩, ⟨"PH.WAKE_HIGH", .phase, 1, 0xF⟩, ⟨"PH.WAKE_LOW", .phase, 2, 0xF⟩,
   ⟨"PH.WAIT_RESP", .phase, 3, 0xF⟩, ⟨"PH.CAPTURE", .phase, 4, 0xF⟩, ⟨"PH.EXTRACT", .phase, 5, 0xF⟩,
   ⟨"PH.CHECK", .phase, 6, 0xF⟩, ⟨"PH.INTERPRET", .phase, 7, 0xF⟩]

/-- The first row of a class that the value selects: `x & mask == match`, in file order (R81). -/
def lookupRow (cls : OpClass) (x : Nat) : Option String :=
  (opcodeTable.find? fun r => r.cls = cls && x &&& r.mask == r.pat).map Row.mnemonic

/-- The class and the selecting field of a code (R81): the value written for CMDW, the offset for REGR and REGW,
`rst` for PIN, the `phase` register for PHASE. -/
def Code.selector : Code → OpClass × Nat
  | .tick true _ => (.pin, 1)
  | .tick false .none => (.pin, 0)
  | .tick false (.read off _) => (.regr, off.toNat)
  | .tick false (.write off _ v) => if off = 0#32 then (.cmdw, v.toNat) else (.regw, off.toNat)
  | .phase code => (.phase, code.toNat)

/-- The code of a bare table word of `nbits` bits. A row of the table gives its selecting field only, and rows of
different classes share words, so the class is chosen here (DESIGN CHOICE, log 13: safe, `step` does not use it):
4 and 8 bits are a `phase` code, 1 bit is `rst`, 32 bits are a register offset to read where R42 names one and
otherwise a value written to `CMD`, and no bits at all is the row without a fixed bit, `READ.OTHER`. -/
def tableCode (nbits w : Nat) : Option Code :=
  if 2 ^ nbits ≤ w then none
  else if nbits = 0 then some (.tick false (.write 0x00 4 0x00000000))
  else if nbits = 1 then some (.tick (w == 1) .none)
  else if (nbits = 4 ∨ nbits = 8) ∧ w < 16 then some (.phase (BitVec.ofNat 4 w))
  else if nbits = 32 then
    if w = 0x00 ∨ w = 0x04 ∨ w = 0x08 ∨ w = 0x0C ∨ w = 0x10 then some (.tick false (.read (BitVec.ofNat 32 w) 4))
    else some (.tick false (.write 0x00 4 (BitVec.ofNat 32 w)))
  else none

/-- The instruction the decoder reads from a bare table word (see `tableCode`); none where it refuses. -/
def decodeTableWord (nbits w : Nat) : Option Instr :=
  match tableCode nbits w with
  | some c =>
    match decode c with
    | .ok i => some i
    | .error _ => none
  | none => none

end Sys2Proof
end

