-- ==== Sys2Proof/Machine/State.lean ====
section
/-! DEFINITION. The state of the decoder as plain data, its faults and refusals, and reset (10_state.md). -/

namespace Sys2Proof.Machine

/-- Why the machine stops. -/
inductive Fault where
  /-- Raised by the phase rule when `phase` holds a code 8 to 15, to which the spec gives no meaning (R74, U3: stuck).
  Safe: the machine stops; no run from reset gets there (R33); only `rst` leaves it. -/
  | stuckPhase (code : BitVec 4)
  /-- Raised by CAPTURE and EXTRACT on an access to an entry of the sample buffer that does not exist (R28, log 8).
  Safe: the machine stops; no run from reset gets there (R33). -/
  | sampleIndexOutOfRange (index : Nat)
  deriving DecidableEq, Repr

/-- Why a tick has no meaning. -/
inductive Refusal where
  /-- Raised by an arm of `exec` whose instruction has no meaning yet. Safe: the machine stops. -/
  | notModelled (mnemonic : String)
  /-- Raised by `step` when the tick's host access is reserved: the spec gives it no meaning and a model refuses it
  (R41, R42, U1, U2, D33). Safe: the machine stops. -/
  | reservedAccess (why : Reject)
  deriving DecidableEq, Repr

/-- The state. Each field's comment names the rule that gives it; the last three groups are the model's own
(logs 1, 4, 5, 12). -/
structure State where
  /-- The configuration (R6); no instruction changes it (log 1). -/
  cfg : Config
  /-- R13. -/
  phase : BitVec 4
  /-- `TYPE`, R14. -/
  stype : Word
  /-- `byte[0..4]`, R15. -/
  frame : Frame
  /-- R16. -/
  bitcnt : BitVec 6
  /-- `HUM`, R17. -/
  hum : Half
  /-- `TEMP`, R18. -/
  temp : Half
  /-- `DONE`, R19. -/
  done : Bool
  /-- `VALID`, R19. -/
  valid : Bool
  /-- `ENDC`, R19. -/
  endc : Bool
  /-- `ERR`, R20. -/
  err : BitVec 3
  /-- R21; a counter that never wraps, as are `wcnt`, `cnt` and `n` (log 16). -/
  hold : Nat
  /-- R22. -/
  wcnt : Nat
  /-- R23. -/
  last : Level
  /-- R23. -/
  cnt : Nat
  /-- R24. -/
  n : Nat
  /-- `S[0..MAX_EDGES-1]`, R25; an entry's stored form is `storedSample` (R72; log 21). -/
  samples : List Sample
  /-- Output port `hrdata` of the last tick (R30); `none` where U4 lets it be anything (log 12). -/
  hrdata : Option Word
  /-- Input port `lin` as sampled at the tick in progress (R30; logs 5 and 18). -/
  lin : Level
  /-- Ticks begun; indexes the free values (log 5). -/
  tick : Nat
  /-- The inputs of the ticks to come (R34; log 4). -/
  script : List TickIn
  deriving DecidableEq, Repr

/-- Entry `i` of the sample buffer after a reset at tick `t`: any level, and any duration below `EDGE_CAP`, which is what
an entry can hold (R25, R72; log 7). -/
def freeEntry (c : Config) (t i : Nat) : Sample where
  level := (Config.freeSample t i).level
  duration := (Config.freeSample t i).duration % c.edgeCap

/-- The sample buffer after a reset at tick `t`: `MAX_EDGES` entries of any content (R32, U5; log 7). -/
def freeBuffer (c : Config) (t : Nat) : List Sample := (List.range c.maxEdges).map (freeEntry c t)

/-- The reset state of R32 for a given configuration, before the first tick. -/
def State.resetWith (c : Config) : State where
  cfg := c
  phase := 0#4
  stype := 0x00000000#32
  frame := Frame.zero
  bitcnt := 0#6
  hum := 0x0000#16
  temp := 0x0000#16
  done := false
  valid := false
  endc := false
  err := 0#3
  hold := 0
  wcnt := 0
  last := .high
  cnt := 0
  n := 0
  samples := freeBuffer c 0
  hrdata := none
  lin := Config.freeLin 0
  tick := 0
  script := []

/-- The machine right after reset (R32, R212; log 15), its open parameters free (log 1). -/
def State.reset : State := State.resetWith Config.free

end Sys2Proof.Machine
end

