-- ==== Sys2Proof/Machine/Operands.lean ====
section
/-! DEFINITION. What the instructions compute: bit samples and packing (43_bit_extraction.md), the checksum
(44_checksum.md), the sensor kinds and the two readings (45_interpretation.md). -/

namespace Sys2Proof.Machine

/-! ### The frame -/

/-- `byte[i]` (R15). -/
def frameByte (f : Frame) (i : Nat) : Byte :=
  match i with
  | 0 => f.b0
  | 1 => f.b1
  | 2 => f.b2
  | 3 => f.b3
  | 4 => f.b4
  | _ => 0#8

/-- The frame with `m` ored into `byte[i]`. -/
def orByte (f : Frame) (i : Nat) (m : Byte) : Frame :=
  match i with
  | 0 => { f with b0 := f.b0 ||| m }
  | 1 => { f with b1 := f.b1 ||| m }
  | 2 => { f with b2 := f.b2 ||| m }
  | 3 => { f with b3 := f.b3 ||| m }
  | 4 => { f with b4 := f.b4 ||| m }
  | _ => f

/-- Bit `k` goes to bit `7 - (k mod 8)` of `byte[k div 8]` (R48, R141). -/
def packBit (f : Frame) (k : Nat) (bit : Bool) : Frame :=
  orByte f (k / 8) (BitVec.ofNat 8 bit.toNat <<< (7 - k % 8))

/-! ### The stored form of a sample -/

/-- `ceil(log2(EDGE_CAP))`: the bits a stored duration of 0 to `EDGE_CAP - 1` takes (R72). -/
def durationBits (edgeCap : Nat) : Nat := if edgeCap ≤ 1 then 0 else Nat.log2 (edgeCap - 1) + 1

/-- A stored sample, `{level, duration}` (R72; R8 for the level's bit). -/
def storedSample (edgeCap : Nat) (x : Sample) : BitVec (1 + durationBits edgeCap) :=
  x.level.bit ++ BitVec.ofNat (durationBits edgeCap) x.duration

/-- The sample a stored form holds (R72). -/
def loadedSample (edgeCap : Nat) (w : BitVec (1 + durationBits edgeCap)) : Sample where
  level := if w.getLsbD (durationBits edgeCap) then .high else .low
  duration := (w.extractLsb' 0 (durationBits edgeCap)).toNat

/-! ### Bit extraction -/

/-- A bit sample is 1 iff its duration is above the threshold, strictly (R70, R144). -/
def sampleBit (threshold : Nat) (x : Sample) : Bool := decide (threshold < x.duration)

/-- The loop of R140 from index `i` on, with `k` bits packed into `f` so far: the bit count and the frame. -/
def extractFrom (threshold : Nat) (i : Nat) (xs : List Sample) (k : Nat) (f : Frame) : Nat × Frame :=
  match xs with
  | [] => (k, f)
  | x :: rest =>
    if preamble ≤ i ∧ x.level = .high ∧ k < frameBits then
      extractFrom threshold (i + 1) rest (k + 1) (packBit f k (sampleBit threshold x))
    else extractFrom threshold (i + 1) rest k f

/-- The whole extraction of R140 over `S[0..n-1]`. -/
def extractAll (threshold : Nat) (xs : List Sample) : Nat × Frame := extractFrom threshold 0 xs 0 Frame.zero

/-! ### Checksum -/

/-- The sum of the first four bytes modulo 256, formed exactly and then narrowed (R155, R156). -/
def checksum (f : Frame) : Byte :=
  BitVec.ofNat 8 ((f.b0.toNat + f.b1.toNat + f.b2.toNat + f.b3.toNat) % 256)

/-! ### Sensor kinds and readings -/

/-- The two sensor kinds (R2). -/
inductive SensorKind where
  | dht11
  | dht22
  deriving DecidableEq, Repr

/-- The kind a code stands for; none is unsupported (R61). -/
def sensorKind (v : Word) : Option SensorKind :=
  if v = 11#32 then some .dht11
  else if v = 22#32 ∨ v = 2302#32 then some .dht22
  else none

/-- `HUM` of a passing frame (R165 to R167). -/
def humidity (k : SensorKind) (f : Frame) : Half :=
  match k with
  | .dht11 => f.b1.setWidth 16 * 10#16
  | .dht22 => f.b0.setWidth 16 * 256#16 + f.b1.setWidth 16

/-- `TEMP` of a passing frame: sign and magnitude (R67, R165 to R167). -/
def temperature (k : SensorKind) (f : Frame) : Half :=
  match k with
  | .dht11 => 0#1 ++ (f.b2.setWidth 15 * 10#15)
  | .dht22 => f.b2.extractLsb' 7 1 ++ ((f.b2 &&& 0x7F#8).setWidth 15 * 256#15 + f.b3.setWidth 15)

end Sys2Proof.Machine
end

