-- ==== Sys2Proof/Machine/Flags.lean ====
section
/-! DEFINITION. The derived flag BUSY, the error codes, the host-visible words and the output ports
(10_state.md R19, R20, R26, R31; 30_encoding.md R65 to R68; 60_exceptions.md R180). -/

namespace Sys2Proof.Machine

/-- `BUSY = 1` iff `phase != IDLE`; not stored (R19). -/
def State.busy (s : State) : Bool := s.phase != Phase.idle.code

/-- The decoder's errors (R180). -/
inductive ErrorKind where
  | noResponse
  | timingTimeout
  | incompleteFrame
  | checksumMismatch
  | unsupportedType
  deriving DecidableEq, Repr

/-- The error codes (R180). -/
def ErrorKind.code : ErrorKind → BitVec 3
  | .noResponse => 1
  | .timingTimeout => 2
  | .incompleteFrame => 3
  | .checksumMismatch => 4
  | .unsupportedType => 5

/-- The error of a short frame names the way the capture ended (R143). -/
def shortFrameError (endc : Bool) : ErrorKind := if endc then .incompleteFrame else .timingTimeout

/-- A one-bit flag in a register word. -/
def flagWord (b : Bool) : Word := BitVec.ofNat 32 b.toNat

/-- `STATUS` (R65, R97). -/
def statusWord (s : State) : Word :=
  flagWord s.busy ||| (flagWord s.done <<< 1) ||| (flagWord s.valid <<< 2) ||| (s.err.setWidth 32 <<< 4) |||
    (flagWord s.endc <<< 7) ||| (s.bitcnt.setWidth 32 <<< 8) ||| (s.phase.setWidth 32 <<< 16)

/-- `CMD` reads as zero: it stores nothing (R43, R96). -/
def cmdWord (_ : State) : Word := 0x00000000#32

/-- `HUM` (R66, R98). -/
def humWord (s : State) : Word := s.hum.setWidth 32

/-- `TEMP` (R67, R99). -/
def tempWord (s : State) : Word := s.temp.setWidth 32

/-- `TYPE` (R68, R100). -/
def typeWord (s : State) : Word := s.stype

/-- The line and status outputs (R30). -/
structure Outputs where
  loe : Bool
  lout : Level
  busy : Bool
  done : Bool
  valid : Bool
  deriving DecidableEq, Repr

/-- The outputs at a tick, functions of its pre-state (R31; log 6). -/
def State.outputs (s : State) : Outputs where
  loe := s.phase = Phase.wakeHigh.code ∨ s.phase = Phase.wakeLow.code
  lout := if s.phase = Phase.wakeHigh.code then .high else .low
  busy := s.busy
  done := s.done
  valid := s.valid

end Sys2Proof.Machine
end

