-- ==== Sys2Proof/Machine/Ops.lean ====
section
/-! DEFINITION. The operations the instructions share: beginning a tick, accepting a START, ending an operation with
an error or a reading, the sample buffer, the read port, reset (10_state.md R11, R32; 40_host_commands.md R91;
60_exceptions.md R184, R185). -/

namespace Sys2Proof.Machine

/-- What an instruction answers. -/
abbrev Result := Host.Outcome State Fault Refusal

/-- The next state changed by `f`; a stop stays what it is. -/
def mapNext (f : State → State) (r : Result) : Result :=
  match r with
  | .next t => .next (f t)
  | .fault e => .fault e
  | .refused e => .refused e

/-! ### The inputs of a tick (R10, R34) -/

/-- The tick's inputs: the script's first entry, or no reset, no host operation and a free level where the script
has run out (DESIGN CHOICE, log 4: unsafe for a claim about more ticks than the script has). -/
def State.inputs (s : State) : TickIn :=
  match s.script with
  | [] => ⟨false, .none, none⟩
  | x :: _ => x

/-- The level of the line at the tick: the script's, or a free value (R12; log 5). -/
def State.level (s : State) : Level :=
  match s.inputs.lin with
  | some l => l
  | none => Config.freeLin s.tick

/-- The state in which the tick's instruction runs: its inputs are taken, `lin` is sampled, and nothing has been read
yet, so `hrdata` has no value (U4; log 12). No register changes. -/
def beginTick (s : State) : State :=
  { s with script := s.script.tail, lin := s.level, tick := s.tick + 1, hrdata := none }

/-- The host-side instruction of the tick (R11, R62). -/
def fetch (s : State) : Except Reject Instr := decode (.tick s.inputs.rst s.inputs.hop)

/-! ### The ends of an operation, and its beginning -/

/-- The sequencer goes to a phase (R8, Control). -/
def State.goto (s : State) (p : Phase) : State := { s with phase := p.code }

/-- `raise E`: the failed end of an operation (R184). This is what taking an exception is on this hardware. -/
def State.raise (s : State) (e : ErrorKind) : State :=
  { s with err := e.code, valid := false, done := true, phase := Phase.idle.code }

/-- `Succeed`: the successful end of an operation (R165, R185). -/
def State.succeed (s : State) : State :=
  { s with valid := true, done := true, err := 0#3, phase := Phase.idle.code }

/-- `StartState(s, v)` (R91). It is also the return from an error (R186). -/
def State.start (s : State) (v : Word) : State :=
  { s with
    phase := Phase.wakeHigh.code, stype := v, done := false, valid := false, err := 0#3, endc := false,
    bitcnt := 0#6, frame := Frame.zero, hold := 0, wcnt := 0, last := .high, cnt := 0, n := 0 }

/-- The reset state of R32, at this tick: the configuration and the ticks to come stay, the sample buffer may hold
anything (log 7). -/
def State.toReset (s : State) : State :=
  { State.resetWith s.cfg with
    samples := freeBuffer s.cfg s.tick, lin := s.lin, tick := s.tick, script := s.script }

/-! ### The sample buffer (R46) -/

/-- The index CAPTURE stores to at this tick, none when it records nothing (R125, R126). -/
def State.recordIndex (s : State) : Option Nat := if s.lin = s.last then none else some s.n

/-- Recording the pulse that has just ended, and starting the next measurement (R126). -/
def State.record (s : State) : State :=
  { s with samples := s.samples.set s.n ⟨s.last, s.cnt⟩, n := s.n + 1, last := s.lin, cnt := 0 }

/-! ### The read port (R11, R30) -/

/-- `hrdata` takes a value. -/
def State.withReadData (s : State) (w : Word) : State := { s with hrdata := some w }

end Sys2Proof.Machine
end

