-- ==== Sys2Proof/Machine/Capture.lean ====
section
/-! DEFINITION. The phase rules of CAPTURE and EXTRACT (42_edge_capture.md, 43_bit_extraction.md). -/

namespace Sys2Proof.Machine

/-- One poll in CAPTURE while the pulse goes on: count it, or end the capture at the edge cap, the unfinished sample
dropped (R125, R127). -/
def State.pulseGoesOn (s : State) : State :=
  if s.cnt + 1 = s.cfg.edgeCap then { s.goto .extract with endc := false } else { s with cnt := s.cnt + 1 }

/-- One poll in CAPTURE that finds the other level: record the pulse, and end the capture when the sample budget is
used up (R125, R126, R128). -/
def State.pulseEnds (s : State) : State :=
  if s.n + 1 = s.cfg.maxEdges then { s.record.goto .extract with endc := true } else s.record

/-- `PH.CAPTURE` (R125). A sample is stored only at an entry that exists (R28; log 8). -/
def execPhCapture (s : State) : Result :=
  if s.n < s.samples.length ∨ s.lin = s.last then
    .next (if s.lin = s.last then s.pulseGoesOn else s.pulseEnds)
  else .fault (.sampleIndexOutOfRange s.n)

/-- The state after the packing loop: `byte[0..4]` and `bitcnt` are written on both paths (R140). -/
def State.extracted (s : State) : State :=
  { s with
    frame := (extractAll s.cfg.bitThreshold (s.samples.take s.n)).2
    bitcnt := BitVec.ofNat 6 (extractAll s.cfg.bitThreshold (s.samples.take s.n)).1 }

/-- `PH.EXTRACT` (R140, R143). Only entries that exist are read (R28; log 8). -/
def execPhExtract (s : State) : Result :=
  if s.n ≤ s.samples.length then
    .next (if (extractAll s.cfg.bitThreshold (s.samples.take s.n)).1 < minBits
      then s.extracted.raise (shortFrameError s.endc) else s.extracted.goto .check)
  else .fault (.sampleIndexOutOfRange s.samples.length)

end Sys2Proof.Machine
end

