-- ==== Sys2Proof/Machine/Frame.lean ====
section
/-! DEFINITION. The phase rules of CHECK and INTERPRET (44_checksum.md, 45_interpretation.md). -/

namespace Sys2Proof.Machine

/-- `PH.CHECK` (R155). -/
def execPhCheck (s : State) : Result :=
  .next (if s.frame.b4 = checksum s.frame then s.goto .interpret else s.raise .checksumMismatch)

/-- `PH.INTERPRET` (R165). -/
def execPhInterpret (s : State) : Result :=
  .next (match sensorKind s.stype with
    | some k => { s with hum := humidity k s.frame, temp := temperature k s.frame }.succeed
    | none => s.raise .unsupportedType)

end Sys2Proof.Machine
end

