-- ==== Sys2Proof/Machine/Wake.lean ====
section
/-! DEFINITION. The phase rules of IDLE, WAKE_HIGH, WAKE_LOW and WAIT_RESP (40_host_commands.md R94; 41_wake_and_response.md). -/

namespace Sys2Proof.Machine

/-- `PH.IDLE`: no state changes (R94). -/
def execPhIdle (s : State) : Result := .next s

/-- `PH.WAKE_HIGH` (R110). -/
def execPhWakeHigh (s : State) : Result :=
  .next (if s.hold + 1 = s.cfg.wakeHighTicks then { s.goto .wakeLow with hold := 0 } else { s with hold := s.hold + 1 })

/-- `PH.WAKE_LOW` (R111). -/
def execPhWakeLow (s : State) : Result :=
  .next (if s.hold + 1 = s.cfg.wakeLowTicks then { s.goto .waitResp with hold := 0, wcnt := 0 }
    else { s with hold := s.hold + 1 })

/-- `PH.WAIT_RESP` (R112): the test for LOW comes first. -/
def execPhWaitResp (s : State) : Result :=
  .next (if s.lin = .low then { s.goto .capture with last := .high, cnt := 0, n := 0 }
    else if s.wcnt + 1 = s.cfg.respCap then s.raise .noResponse
    else { s with wcnt := s.wcnt + 1 })

end Sys2Proof.Machine
end

