-- ==== Sys2Proof/Machine/Sequencer.lean ====
section
/-! DEFINITION. The sequencer: the rule of the phase in `phase` acts (10_state.md R11, R13). -/

namespace Sys2Proof.Machine

/-- `PhaseStep` (R11): codes 8 to 15 have no rule and the machine is stuck (R74, U3; log 9). -/
def phaseStep (s : State) : Result :=
  match phaseOf s.phase with
  | some .idle => execPhIdle s
  | some .wakeHigh => execPhWakeHigh s
  | some .wakeLow => execPhWakeLow s
  | some .waitResp => execPhWaitResp s
  | some .capture => execPhCapture s
  | some .extract => execPhExtract s
  | some .check => execPhCheck s
  | some .interpret => execPhInterpret s
  | none => .fault (.stuckPhase s.phase)

/-- A tick with a write of `v` to `CMD`: accepted when the pre-state is idle, otherwise it has no effect and the phase
rule acts alone (R11, R90, R92). -/
def startTick (v : Word) (s : State) : Result :=
  if s.phase = Phase.idle.code then .next (s.start v) else phaseStep s

/-- A tick with a read: the word comes from the pre-state, the phase rule acts (R11). -/
def readTick (word : State → Word) (s : State) : Result := mapNext (fun t => t.withReadData (word s)) (phaseStep s)

/-- A tick with a write to a read-only register: the phase rule acts and nothing else happens (R11, R43). -/
def ignoredWriteTick (_v : Word) (s : State) : Result := phaseStep s

end Sys2Proof.Machine
end

