-- ==== Sys2Proof/Machine/Host.lean ====
section
/-! DEFINITION. The host-side instructions: START, register reads, ignored writes, RESET and NOP
(40_host_commands.md, 70_reset_and_hazards.md R210). Each meaning is the whole tick in which the host issues the
instruction (log 10). -/

namespace Sys2Proof.Machine

/-- `READ.DHT11` (R101). -/
def execReadDht11 (s : State) : Result := startTick 11#32 s

/-- `READ.DHT22` (R102). -/
def execReadDht22 (s : State) : Result := startTick 22#32 s

/-- `READ.AM2302` (R103). -/
def execReadAm2302 (s : State) : Result := startTick 2302#32 s

/-- `READ.OTHER` (R104): accepted like any other; it fails late. -/
def execReadOther (v : Word) (s : State) : Result := startTick v s

/-- `RD.CMD` (R96). -/
def execRdCmd (s : State) : Result := readTick cmdWord s

/-- `RD.STATUS` (R97). -/
def execRdStatus (s : State) : Result := readTick statusWord s

/-- `RD.HUM` (R98). -/
def execRdHum (s : State) : Result := readTick humWord s

/-- `RD.TEMP` (R99). -/
def execRdTemp (s : State) : Result := readTick tempWord s

/-- `RD.TYPE` (R100). -/
def execRdType (s : State) : Result := readTick typeWord s

/-- `WR.STATUS` (R105). -/
def execWrStatus (v : Word) (s : State) : Result := ignoredWriteTick v s

/-- `WR.HUM` (R106). -/
def execWrHum (v : Word) (s : State) : Result := ignoredWriteTick v s

/-- `WR.TEMP` (R107). -/
def execWrTemp (v : Word) (s : State) : Result := ignoredWriteTick v s

/-- `WR.TYPE` (R108). -/
def execWrType (v : Word) (s : State) : Result := ignoredWriteTick v s

/-- `RESET` (R210): priority over everything else in the tick. -/
def execReset (s : State) : Result := .next s.toReset

/-- `NOP` (R95): the post-state is `PhaseStep` of the pre-state and nothing else happens. -/
def execNop (s : State) : Result := phaseStep s

end Sys2Proof.Machine
end

