-- ==== Sys2Proof/Machine/Dispatch.lean ====
section
/-! DEFINITION. One arm per instruction of opcode_table.json. -/

namespace Sys2Proof.Machine

def exec (i : Instr) (s : State) : Host.Outcome State Fault Refusal :=
  match i with
  | .readDht11 => Sys2Proof.Machine.execReadDht11 s
  | .readDht22 => Sys2Proof.Machine.execReadDht22 s
  | .readAm2302 => Sys2Proof.Machine.execReadAm2302 s
  | .readOther v => Sys2Proof.Machine.execReadOther v s
  | .rdCmd => Sys2Proof.Machine.execRdCmd s
  | .rdStatus => Sys2Proof.Machine.execRdStatus s
  | .rdHum => Sys2Proof.Machine.execRdHum s
  | .rdTemp => Sys2Proof.Machine.execRdTemp s
  | .rdType => Sys2Proof.Machine.execRdType s
  | .wrStatus v => Sys2Proof.Machine.execWrStatus v s
  | .wrHum v => Sys2Proof.Machine.execWrHum v s
  | .wrTemp v => Sys2Proof.Machine.execWrTemp v s
  | .wrType v => Sys2Proof.Machine.execWrType v s
  | .reset => Sys2Proof.Machine.execReset s
  | .nop => Sys2Proof.Machine.execNop s
  | .phIdle => Sys2Proof.Machine.execPhIdle s
  | .phWakeHigh => Sys2Proof.Machine.execPhWakeHigh s
  | .phWakeLow => Sys2Proof.Machine.execPhWakeLow s
  | .phWaitResp => Sys2Proof.Machine.execPhWaitResp s
  | .phCapture => Sys2Proof.Machine.execPhCapture s
  | .phExtract => Sys2Proof.Machine.execPhExtract s
  | .phCheck => Sys2Proof.Machine.execPhCheck s
  | .phInterpret => Sys2Proof.Machine.execPhInterpret s

end Sys2Proof.Machine
end

