-- ==== Sys2Proof/Machine/Step.lean ====
section
/-! DEFINITION. One step is one tick (10_state.md R10, R11). -/

namespace Sys2Proof.Machine

/-- One tick: take the inputs, decode the host side, run it; a reserved access is refused (R11, R41, R42; log 11). -/
def step (s : State) : Host.Outcome State Fault Refusal :=
  match fetch s with
  | .ok i => exec i (beginTick s)
  | .error why => .refused (.reservedAccess why)

/-- `s` with a table word placed where `step` fetches its next instruction (log 14): a host word replaces `rst` and `hop` of the
next tick, a `phase` code goes into the `phase` register with a NOP on the host's side. The line's level and the
ticks after it stay. -/
def State.withFetchWord (s : State) (nbits w : Nat) : State :=
  match tableCode nbits w with
  | some (.tick rst hop) => { s with script := ⟨rst, hop, s.inputs.lin⟩ :: s.script.tail }
  | some (.phase code) => { s with phase := code, script := ⟨false, .none, s.inputs.lin⟩ :: s.script.tail }
  | none => s

end Sys2Proof.Machine
end

