-- ==== Sys2Proof/Machine/Script.lean ====
section
/-! DEFINITION. The notation for host scripts and waveforms, and what a host makes of the words it reads
(30_encoding.md R78 to R80; 20_memory.md R44). `step` uses none of it (log 20); it writes the tick script a test or a claim runs. -/

namespace Sys2Proof.Machine

/-- One line of a host script (R78); a repeat count belongs to NOP. -/
inductive ScriptLine where
  | start (v : Word)
  | rd (off : Word)
  | wr (off : Word) (v : Word)
  | nop (k : Nat)
  | reset
  deriving DecidableEq, Repr

/-- The host inputs of a line's ticks: `rst` and `hop` (R78). -/
def ScriptLine.ticks : ScriptLine → List (Bool × HostOp)
  | .start v => [(false, .write 0x00#32 4 v)]
  | .rd off => [(false, .read off 4)]
  | .wr off v => [(false, .write off 4 v)]
  | .nop k => List.replicate k (false, .none)
  | .reset => [(true, .none)]

/-- `READ DHT11` (R79). -/
def readDht11Line : ScriptLine := .start 11#32

/-- `READ DHT22` (R79). -/
def readDht22Line : ScriptLine := .start 22#32

/-- `READ AM2302` (R79). -/
def readAm2302Line : ScriptLine := .start 2302#32

/-- `GETREADING` (R79). -/
def getReading : List ScriptLine := [.rd 0x04#32, .rd 0x08#32, .rd 0x0C#32]

/-- `WAITDONE` ends at a STATUS word with bit 1 set (R79). -/
def waitDoneEnds (status : Word) : Bool := status.getLsbD 1

/-- `WAITIDLE` ends at a STATUS word with bit 0 clear (R79). -/
def waitIdleEnds (status : Word) : Bool := !status.getLsbD 0

/-- A waveform given as runs (R80). -/
def waveform (runs : List (Level × Nat)) : List Level := runs.flatMap fun r => List.replicate r.2 r.1

/-- The tick script of host lines and a waveform whose first element is sampled at tick `start` (R80); the level of a
tick the waveform does not cover is left free. -/
def scriptOf (host : List ScriptLine) (start : Nat) (line : List Level) : List TickIn :=
  (host.flatMap ScriptLine.ticks).zipIdx.map fun x =>
    { rst := x.1.1, hop := x.1.2, lin := if x.2 < start then none else (line.drop (x.2 - start)).head? }

/-- A reading in tenths, as the three words carry it (R66, R67, R79). -/
structure Reading where
  stype : Word
  negative : Bool
  magnitude : Nat
  humidity : Nat
  deriving DecidableEq, Repr

/-- What `readSensor` returns: a reading iff the STATUS word has VALID, otherwise the error code (R79). -/
def hostResult (stype status hum temp : Word) : Except (BitVec 3) Reading :=
  if status.getLsbD 2 then
    .ok ⟨stype, temp.getLsbD 15, (temp.extractLsb' 0 15).toNat, (hum.extractLsb' 0 16).toNat⟩
  else .error (status.extractLsb' 4 3)

/-- The offset a platform bus address reaches, none outside the block's five words (R28, R44). -/
def offsetOf (c : Config) (addr : Nat) : Option Word :=
  if c.base ≤ addr ∧ addr < c.base + 0x14 then some (BitVec.ofNat 32 (addr - c.base)) else none

end Sys2Proof.Machine
end

