-- ==== Sys2Proof/Safety.lean ====
section
/-! DEFINITION. The terms claims use: the reset values, the invariant of 10_state.md R33, quiet scripts, what bounds an
operation (70_reset_and_hazards.md R227) and when two states run the same operation (R231). -/

namespace Sys2Proof.Machine

/-- `k` ticks, stopping at the first fault or refusal: `Host.Core.run` of the machine (Laws/Ops.lean, `run_eq_core_run`). -/
def run (k : Nat) (s : State) : Result :=
  match k with
  | 0 => .next s
  | k + 1 =>
    match step s with
    | .next t => run k t
    | .fault r => .fault r
    | .refused r => .refused r

/-- Every register at its reset value of R32. The sample buffer is left out: R32 leaves its content unspecified. -/
structure InResetState (s : State) : Prop where
  phase : s.phase = 0#4
  stype : s.stype = 0#32
  frame : s.frame = Frame.zero
  bitcnt : s.bitcnt = 0#6
  hum : s.hum = 0#16
  temp : s.temp = 0#16
  done : s.done = false
  valid : s.valid = false
  endc : s.endc = false
  err : s.err = 0#3
  hold : s.hold = 0
  wcnt : s.wcnt = 0
  last : s.last = .high
  cnt : s.cnt = 0
  n : s.n = 0

/-- The level of the sample of index `i`: HIGH for an even index, LOW for an odd one (R130). -/
def levelOfIndex (i : Nat) : Level := if i % 2 = 0 then .high else .low

/-- The recorded samples alternate, starting with HIGH (R130). -/
def Alternates (s : State) : Prop := ∀ i x, i < s.n → s.samples[i]? = some x → x.level = levelOfIndex i

/-- The invariant of R33, with the clauses that make it inductive. -/
structure StateInv (s : State) : Prop where
  /-- R6. -/
  cfgValid : s.cfg.Valid
  /-- R25: the buffer has `MAX_EDGES` entries. -/
  buffer : s.samples.length = s.cfg.maxEdges
  /-- R33, first point. -/
  phaseLegal : s.phase.toNat < 8
  /-- R33, second point (as the clauses down to `nCapture`). -/
  holdHigh : s.phase = Phase.wakeHigh.code → s.hold < s.cfg.wakeHighTicks
  holdLow : s.phase = Phase.wakeLow.code → s.hold < s.cfg.wakeLowTicks
  wcnt : s.wcnt < s.cfg.respCap
  cnt : s.cnt < s.cfg.edgeCap
  nBudget : s.n ≤ s.cfg.maxEdges
  nCapture : s.phase = Phase.capture.code → s.n < s.cfg.maxEdges
  /-- R33, third point, and R25: the durations of all entries, the recorded ones among them. -/
  bitcnt : s.bitcnt.toNat ≤ 40
  durations : ∀ x ∈ s.samples, x.duration < s.cfg.edgeCap
  /-- R33, fourth point. -/
  levels : Alternates s
  /-- R130: the pulse being measured has the level of the next index. -/
  lastLevel : s.phase = Phase.capture.code → s.last = levelOfIndex s.n
  /-- R33, fifth point. -/
  validEnds : s.valid = true → s.done = true ∧ s.err = 0#3 ∧ s.phase = Phase.idle.code
  /-- R33, sixth point. -/
  busyClear : s.phase ≠ Phase.idle.code → s.done = false ∧ s.valid = false ∧ s.err = 0#3
  /-- R33, seventh point: such a state still has the registers of reset. -/
  idleFresh : s.phase = Phase.idle.code → s.done = false → InResetState s
  /-- R20. -/
  outcome : s.done = true → (s.valid = true ∧ s.err = 0#3) ∨ (s.valid = false ∧ 1 ≤ s.err.toNat ∧ s.err.toNat ≤ 5)
  /-- R97: ENDC reads 0 until CAPTURE has written it. -/
  endcFresh : s.phase ≠ Phase.idle.code → s.phase.toNat ≤ 4 → s.endc = false
  /-- R97: BITCNT reads 0, and the frame is empty, until EXTRACT has written them. -/
  frameFresh : s.phase ≠ Phase.idle.code → s.phase.toNat ≤ 5 → s.bitcnt = 0#6 ∧ s.frame = Frame.zero
  /-- R158: CHECK and INTERPRET are reached only with at least 39 bits. -/
  enoughBits : s.phase.toNat = 6 ∨ s.phase.toNat = 7 → 39 ≤ s.bitcnt.toNat
  /-- R182: what each error leaves in BITCNT and ENDC. -/
  noResponseRecord : s.err = 1#3 → s.bitcnt = 0#6 ∧ s.endc = false
  shortRecord : s.err = 2#3 ∨ s.err = 3#3 → s.bitcnt.toNat < 39 ∧ (s.endc = true ↔ s.err = 3#3)
  fullRecord : s.err = 4#3 ∨ s.err = 5#3 ∨ s.valid = true → 39 ≤ s.bitcnt.toNat

/-- The phase rule can act: the phase is legal and the entry CAPTURE may store to, or the entries EXTRACT reads, exist
(R28, R33). Every state with `StateInv` is such a state. -/
structure Operable (s : State) : Prop where
  phaseLegal : s.phase.toNat < 8
  capture : s.phase = Phase.capture.code → s.n < s.samples.length
  extract : s.phase = Phase.extract.code → s.n ≤ s.samples.length

/-- The host neither resets the block nor makes a reserved access in the next `k` ticks. -/
def QuietFor (k : Nat) (s : State) : Prop :=
  ∀ x ∈ s.script.take k, x.rst = false ∧ ∃ i, decodeHop x.hop = .ok i

/-- In the next `k` ticks the host does nothing, reads a register, or writes to a read-only register. -/
def IdleFor (k : Nat) (s : State) : Prop :=
  ∀ x ∈ s.script.take k, x.rst = false ∧
    (x.hop = .none ∨ (∃ off i, x.hop = .read off 4 ∧ decodeHop x.hop = .ok i) ∨
      (∃ off v i, x.hop = .write off 4 v ∧ off ≠ 0#32 ∧ decodeHop x.hop = .ok i))

/-- The level of the line at the `k`-th tick from here: the script's or a free value (R12). -/
def State.levelAt (s : State) (k : Nat) : Level :=
  match s.script[k]? with
  | some x => x.lin.getD (Config.freeLin (s.tick + k))
  | none => Config.freeLin (s.tick + k)

/-- The inputs of the `k`-th tick from here: the script's entry, or nothing where the script has run out (log 4). -/
def State.inputsAt (s : State) (k : Nat) : TickIn := s.script[k]?.getD ⟨false, .none, none⟩

/-- Two states have the same `k` ticks ahead of them: the same reset, host operation and level at each, whatever their
tick counters and their scripts from there on. -/
def SameInputsFor (k : Nat) (a b : State) : Prop :=
  ∀ j < k, (a.inputsAt j).rst = (b.inputsAt j).rst ∧ (a.inputsAt j).hop = (b.inputsAt j).hop ∧ a.levelAt j = b.levelAt j

/-- The instruction runs the rule of the phase `p` (other than IDLE) on `s`: it is that rule's own instruction, or a host-side
instruction other than RESET in that phase (R11). -/
def RunsRule (p : Phase) (i : Instr) (s : State) : Prop :=
  i = p.instr ∨ (s.phase = p.code ∧ i ≠ .reset ∧ ∀ q : Phase, i ≠ q.instr)

/-- The most ticks an operation can take from its accepted START on (R227). -/
def operationBound (c : Config) : Nat :=
  c.wakeHighTicks + c.wakeLowTicks + c.respCap + c.maxEdges * c.edgeCap + 3

/-- The durations of the recorded samples, added up (R132). -/
def durationSum (s : State) : Nat := ((s.samples.take s.n).map Sample.duration).sum

/-- Two states that run the same operation: they agree in everything an operation reads, and may differ in the old
reading, in the read port, in the sampled level before the next tick, in the entries of the sample buffer the operation
has not written, in how many ticks have passed and in the ticks to come (R29, R231). -/
structure SameOperation (a b : State) : Prop where
  cfg : a.cfg = b.cfg
  phase : a.phase = b.phase
  stype : a.stype = b.stype
  frame : a.frame = b.frame
  bitcnt : a.bitcnt = b.bitcnt
  done : a.done = b.done
  valid : a.valid = b.valid
  endc : a.endc = b.endc
  err : a.err = b.err
  hold : a.hold = b.hold
  wcnt : a.wcnt = b.wcnt
  last : a.last = b.last
  cnt : a.cnt = b.cnt
  n : a.n = b.n
  recorded : a.samples.take a.n = b.samples.take b.n
  entries : a.samples.length = b.samples.length

end Sys2Proof.Machine
end

