-- ==== Sys2Proof/Certificates/Slice0/Obligations.lean ====
section
/-! DEFINITION. The statements for the provers. Each docstring names the rule of spec/ it formalises. -/

open Sys2Proof Sys2Proof.Machine

/-! ## Encoding and decoding -/

/-- R61, R62, R13: words written out from the tables of 30_encoding.md and 10_state.md decode to their instructions. -/
def Obligations.WordsOfTheTablesDecode : Prop :=
  decode (.tick false (.write 0x00000000#32 4 0x0000000B#32)) = .ok .readDht11 ∧
  decode (.tick false (.write 0x00000000#32 4 0x000008FE#32)) = .ok .readAm2302 ∧
  decode (.tick false (.write 0x00000000#32 4 0x0001000B#32)) = .ok (.readOther 0x0001000B#32) ∧
  decode (.tick false (.read 0x00000004#32 4)) = .ok .rdStatus ∧
  decode (.tick false (.write 0x00000008#32 4 0xFFFFFFFF#32)) = .ok (.wrHum 0xFFFFFFFF#32) ∧
  decode (.tick true (.write 0x00000000#32 4 0x0000000B#32)) = .ok .reset ∧
  decode (.tick false .none) = .ok .nop ∧
  decode (.phase 0b0100#4) = .ok .phCapture

/-- Decoding undoes encoding for every well-formed instruction, and whatever decodes is well-formed and, but for
`RESET` (whose tick ignores `hop`), has only that one encoding. -/
def Obligations.DecodeAndEncodeAgree : Prop :=
  (∀ i : Instr, i.wellFormed = true → decode (encode i) = .ok i) ∧
  (∀ (c : Code) (i : Instr), decode c = .ok i → i.wellFormed = true ∧ (i ≠ .reset → encode i = c))

/-- R81, R41: what decodes is what the first selecting row of opcode_table.json names, and a code is rejected exactly when
it is an access of another size than 4, an access at an offset that is not a multiple of 4, or no row selects it. -/
def Obligations.DecodingFollowsTheTable : Prop :=
  (∀ (c : Code) (i : Instr), decode c = .ok i →
    lookupRow c.selector.1 c.selector.2 = some i.mnemonic) ∧
  (∀ c : Code, (∃ e, decode c = .error e) ↔
    (∃ (off : Word) (size : Nat), (c = .tick false (.read off size) ∨ ∃ v, c = .tick false (.write off size v)) ∧
      (size ≠ 4 ∨ off.toNat % 4 ≠ 0)) ∨
    lookupRow c.selector.1 c.selector.2 = none)

/-! ## The step -/

/-- R10, R11: when the tick's host side decodes to an instruction, the step runs it on the state whose inputs are
taken; when in addition the host does nothing, it runs the phase rule's instruction. Taking the inputs changes no
register. -/
def Obligations.StepRunsTheDecodedInstruction : Prop :=
  (∀ (s : State) (i : Instr), decode (.tick s.inputs.rst s.inputs.hop) = .ok i → step s = exec i (beginTick s)) ∧
  (∀ (s : State) (i : Instr), s.inputs.rst = false → s.inputs.hop = .none → decode (.phase s.phase) = .ok i →
    step s = exec i (beginTick s)) ∧
  (∀ s : State, beginTick s =
    { s with script := s.script.tail, lin := s.levelAt 0, tick := s.tick + 1, hrdata := none })

/-- R41, R42: without reset, an access of another size, at a misaligned offset or at an offset other than the five is
refused, and no other access is. That the whole tick is refused is the model's reading (log 11), and that an access
carries its size is its own way of writing the reserved sizes down (log 17). -/
def Obligations.ReservedAccessesAreRefused : Prop :=
  (∀ (s : State) (off : Word) (size : Nat), s.inputs.rst = false → s.inputs.hop = .read off size →
    ((∃ why, step s = .refused (.reservedAccess why)) ↔
      ¬ (size = 4 ∧ off.toNat % 4 = 0 ∧ off ∈ [0x00#32, 0x04#32, 0x08#32, 0x0C#32, 0x10#32]))) ∧
  (∀ (s : State) (off : Word) (size : Nat) (v : Word), s.inputs.rst = false → s.inputs.hop = .write off size v →
    ((∃ why, step s = .refused (.reservedAccess why)) ↔
      ¬ (size = 4 ∧ off.toNat % 4 = 0 ∧ off ∈ [0x00#32, 0x04#32, 0x08#32, 0x0C#32, 0x10#32])))

/-- R74, U3 (the model's reading of "stuck", log 9): in a state whose `phase` holds a code 8 to 15, every tick without
reset whose access is not reserved faults, and a tick with reset does not. -/
def Obligations.UnusedPhaseCodesAreStuck : Prop :=
  ∀ s : State, 8 ≤ s.phase.toNat →
    (∀ i, s.inputs.rst = false → decodeHop s.inputs.hop = .ok i → step s = .fault (.stuckPhase s.phase)) ∧
    (s.inputs.rst = true → ∃ t, step s = .next t ∧ InResetState t)

/-! ## Reset -/

/-- R32: the state after reset, and its outputs. -/
def Obligations.ResetLeavesTheRegistersOfR32 : Prop :=
  InResetState State.reset ∧ State.reset.outputs.loe = false ∧ State.reset.samples.length = State.reset.cfg.maxEdges

/-- The configuration of `State.reset` (the model's choice, logs 1 and 2) meets every constraint of R6. -/
def Obligations.ResetConfigurationMeetsTheConstraints : Prop :=
  State.reset.cfg.Valid ∧ State.reset.cfg.MeetsWakeTimes ∧
    State.reset.cfg.edgeCap = 1000 ∧ State.reset.cfg.maxEdges = 100 ∧ State.reset.cfg.bitThreshold = 200

/-- R210: a tick with `rst = 1` ends in the reset state from every state, whatever the phase and the host operation,
and the line is released. The model's own in it: the configuration, the tick counter and the ticks to come stay (logs 1,
4, 5), the sample buffer has its entries again (log 7), and the read port holds no value (log 12). -/
def Obligations.ResetPinHasPriority : Prop :=
  (∀ s : State, ∃ t, exec .reset s = .next t ∧ InResetState t ∧ t.outputs.loe = false ∧ t.cfg = s.cfg ∧
    t.samples.length = s.cfg.maxEdges ∧ t.hrdata = none ∧ t.tick = s.tick ∧ t.script = s.script) ∧
  (∀ s : State, s.inputs.rst = true → ∃ t, step s = .next t ∧ exec .reset (beginTick s) = .next t ∧
    InResetState t ∧ statusWord t = 0x00000000#32 ∧ t.outputs.loe = false)

/-! ## Host commands -/

/-- R91: a START in IDLE gives exactly `StartState`, whatever the kind, and the line is driven HIGH from then on. -/
def Obligations.StartInIdleGivesStartState : Prop :=
  ∀ (s : State) (v : Word) (i : Instr), s.phase = 0#4 →
    (i = .readDht11 ∧ v = 11#32) ∨ (i = .readDht22 ∧ v = 22#32) ∨ (i = .readAm2302 ∧ v = 2302#32) ∨ i = .readOther v →
    exec i s = .next { s with
      phase := 1#4, stype := v, done := false, valid := false, err := 0#3, endc := false, bitcnt := 0#6
      frame := ⟨0#8, 0#8, 0#8, 0#8, 0#8⟩, hold := 0, wcnt := 0, last := .high, cnt := 0, n := 0 } ∧
    ∀ t, exec i s = .next t → t.outputs.loe = true ∧ t.outputs.lout = .high

/-- R92: a write to CMD while an operation runs has no effect at all: the tick is the tick of a NOP, and TYPE stays. -/
def Obligations.StartWhileBusyIsLost : Prop :=
  ∀ (s : State) (i : Instr), s.phase ≠ 0#4 →
    i = .readDht11 ∨ i = .readDht22 ∨ i = .readAm2302 ∨ (∃ v, i = .readOther v) →
    exec i s = exec .nop s ∧ ∀ t, exec i s = .next t → t.stype = s.stype

/-- R95, R13: a NOP tick is the phase rule of the phase in `phase`, and nothing else; it completes in every state in
which the rule can act. -/
def Obligations.NopRunsThePhaseRule : Prop :=
  ∀ s : State, Operable s → ∃ p t, s.phase = Phase.code p ∧ exec .nop s = .next t ∧ exec p.instr s = .next t

/-- R96 to R100: a read returns a word of the pre-state and changes nothing: the tick is the tick of a NOP but for
`hrdata`. -/
def Obligations.ReadsReturnThePreState : Prop :=
  ∀ s : State, Operable s → ∃ (t : State) (status : Word),
    status = (BitVec.ofNat 32 (if s.phase = 0#4 then 0 else 1) ||| BitVec.ofNat 32 s.done.toNat <<< 1 |||
      BitVec.ofNat 32 s.valid.toNat <<< 2 ||| BitVec.setWidth 32 s.err <<< 4 |||
      BitVec.ofNat 32 s.endc.toNat <<< 7 ||| BitVec.setWidth 32 s.bitcnt <<< 8 |||
      BitVec.setWidth 32 s.phase <<< 16) ∧
    exec .nop s = .next t ∧
    exec .rdCmd s = .next { t with hrdata := some 0x00000000#32 } ∧
    exec .rdStatus s = .next { t with hrdata := some status } ∧
    exec .rdHum s = .next { t with hrdata := some (BitVec.setWidth 32 s.hum) } ∧
    exec .rdTemp s = .next { t with hrdata := some (BitVec.setWidth 32 s.temp) } ∧
    exec .rdType s = .next { t with hrdata := some s.stype }

/-- R65: the fields of the STATUS word a read returns, its zero fields among them. -/
def Obligations.StatusWordLayout : Prop :=
  ∀ (s t : State) (w : Word), exec .rdStatus s = .next t → t.hrdata = some w →
    (w.getLsbD 0 = true ↔ s.phase ≠ 0#4) ∧ w.getLsbD 1 = s.done ∧ w.getLsbD 2 = s.valid ∧ w.getLsbD 3 = false ∧
    w.extractLsb' 4 3 = s.err ∧ w.getLsbD 7 = s.endc ∧ w.extractLsb' 8 6 = s.bitcnt ∧ w.extractLsb' 14 2 = 0#2 ∧
    w.extractLsb' 16 4 = s.phase ∧ w.extractLsb' 20 12 = 0#12

/-- R105 to R108: a write to STATUS, HUM, TEMP or TYPE changes nothing, for any value: the tick is the tick of a NOP. -/
def Obligations.WritesToReadOnlyRegistersDoNothing : Prop :=
  ∀ (s : State) (v : Word), Operable s → ∃ t, exec .nop s = .next t ∧ exec (.wrStatus v) s = .next t ∧
    exec (.wrHum v) s = .next t ∧ exec (.wrTemp v) s = .next t ∧ exec (.wrType v) s = .next t

/-- R94: the idle phase rule changes no state. -/
def Obligations.IdlePhaseChangesNothing : Prop :=
  ∀ s : State, exec .phIdle s = .next s

/-- R94, R45: however many ticks the block stays idle, under NOPs, register reads and ignored writes, every register
keeps the outcome of the last operation. -/
def Obligations.IdleKeepsTheOutcomeIndefinitely : Prop :=
  ∀ (k : Nat) (s : State), s.phase = 0#4 → IdleFor k s → ∃ t, run k s = .next t ∧
    t = { s with hrdata := t.hrdata, lin := t.lin, tick := s.tick + k, script := s.script.drop k }

/-- R79: over the three ticks of GETREADING in IDLE, the words read make up what `readSensor` returns: the reading when
VALID is set, otherwise the error code. -/
def Obligations.GetReadingReturnsTheOutcome : Prop :=
  ∀ s : State, s.phase = 0#4 → s.script = scriptOf getReading 3 [] →
    ∃ t₁ t₂ t₃ w₁ w₂ w₃, run 1 s = .next t₁ ∧ run 2 s = .next t₂ ∧ run 3 s = .next t₃ ∧
      t₁.hrdata = some w₁ ∧ t₂.hrdata = some w₂ ∧ t₃.hrdata = some w₃ ∧
      hostResult s.stype w₁ w₂ w₃ =
        if s.valid = true then
          .ok ⟨s.stype, s.temp.getLsbD 15, (s.temp.extractLsb' 0 15).toNat, s.hum.toNat⟩
        else .error s.err

/-! ## Wake and response wait -/

/-- R110: one tick of WAKE_HIGH, whatever the line does, and the line while the phase lasts. -/
def Obligations.WakeHighTick : Prop :=
  ∀ s : State,
    (s.phase = 1#4 → s.outputs.loe = true ∧ s.outputs.lout = .high) ∧
    (s.hold + 1 = s.cfg.wakeHighTicks → exec .phWakeHigh s = .next { s with phase := 2#4, hold := 0 }) ∧
    (s.hold + 1 ≠ s.cfg.wakeHighTicks → exec .phWakeHigh s = .next { s with hold := s.hold + 1 })

/-- R111: one tick of WAKE_LOW, whatever the line does; the line is driven LOW, and released on leaving. -/
def Obligations.WakeLowTick : Prop :=
  ∀ s : State,
    (s.phase = 2#4 → s.outputs.loe = true ∧ s.outputs.lout = .low) ∧
    (s.hold + 1 = s.cfg.wakeLowTicks → exec .phWakeLow s = .next { s with phase := 3#4, hold := 0, wcnt := 0 } ∧
      ∀ t, exec .phWakeLow s = .next t → t.outputs.loe = false) ∧
    (s.hold + 1 ≠ s.cfg.wakeLowTicks → exec .phWakeLow s = .next { s with hold := s.hold + 1 })

/-- R113: from the state a START leaves, the line is driven HIGH for exactly `WAKE_HIGH_TICKS` tick periods, then LOW for
exactly `WAKE_LOW_TICKS`, then released for the response wait. -/
def Obligations.WakeHasItsExactLength : Prop :=
  ∀ s : State, s.cfg.Valid → s.phase = 1#4 → s.hold = 0 → QuietFor (s.cfg.wakeHighTicks + s.cfg.wakeLowTicks) s →
    (∀ k < s.cfg.wakeHighTicks, ∃ t, run k s = .next t ∧ t.phase = 1#4 ∧
      t.outputs.loe = true ∧ t.outputs.lout = .high) ∧
    (∀ k < s.cfg.wakeLowTicks, ∃ t, run (s.cfg.wakeHighTicks + k) s = .next t ∧ t.phase = 2#4 ∧
      t.outputs.loe = true ∧ t.outputs.lout = .low) ∧
    (∃ t, run (s.cfg.wakeHighTicks + s.cfg.wakeLowTicks) s = .next t ∧ t.phase = 3#4 ∧ t.hold = 0 ∧
      t.wcnt = 0 ∧ t.outputs.loe = false)

/-- R112: LOW ends the wait, also at the poll that would fail; otherwise the poll is counted or NoResponse is raised. The
driver is off. -/
def Obligations.ResponseWaitTick : Prop :=
  ∀ s : State,
    (s.phase = 3#4 → s.outputs.loe = false) ∧
    (s.lin = .low → exec .phWaitResp s = .next { s with phase := 4#4, last := .high, cnt := 0, n := 0 }) ∧
    (s.lin = .high → s.wcnt + 1 = s.cfg.respCap →
      exec .phWaitResp s = .next { s with err := 1#3, valid := false, done := true, phase := 0#4 }) ∧
    (s.lin = .high → s.wcnt + 1 ≠ s.cfg.respCap → exec .phWaitResp s = .next { s with wcnt := s.wcnt + 1 })

/-- R117: if the first LOW poll is the `j`-th, the wait takes `j` ticks and ends in CAPTURE; if the first `RESP_CAP` polls
are HIGH, it takes `RESP_CAP` ticks and ends with NoResponse. -/
def Obligations.ResponseWaitLength : Prop :=
  (∀ (s : State) (j : Nat), s.phase = 3#4 → s.wcnt = 0 → j < s.cfg.respCap → QuietFor (j + 1) s →
    (∀ k < j, s.levelAt k = .high) → s.levelAt j = .low →
      (∀ k ≤ j, ∃ t, run k s = .next t ∧ t.phase = 3#4) ∧
      ∃ t, run (j + 1) s = .next t ∧ t.phase = 4#4 ∧ t.last = .high ∧ t.cnt = 0 ∧ t.n = 0) ∧
  (∀ s : State, s.phase = 3#4 → s.wcnt = 0 → 1 ≤ s.cfg.respCap → QuietFor s.cfg.respCap s →
    (∀ k < s.cfg.respCap, s.levelAt k = .high) →
      (∀ k < s.cfg.respCap, ∃ t, run k s = .next t ∧ t.phase = 3#4) ∧
      ∃ t, run s.cfg.respCap s = .next t ∧ t.phase = 0#4 ∧ t.done = true ∧ t.valid = false ∧ t.err = 1#3)

/-! ## Edge capture -/

/-- R125 to R128: one poll in CAPTURE, where the entry it may store to exists (`MissingBufferEntriesFault` has the other
states). The driver is off. -/
def Obligations.CaptureTick : Prop :=
  ∀ s : State,
    (s.phase = 4#4 → s.outputs.loe = false) ∧
    (s.lin = s.last → s.cnt + 1 = s.cfg.edgeCap → exec .phCapture s = .next { s with endc := false, phase := 5#4 }) ∧
    (s.lin = s.last → s.cnt + 1 ≠ s.cfg.edgeCap → exec .phCapture s = .next { s with cnt := s.cnt + 1 }) ∧
    (s.lin ≠ s.last → s.n < s.samples.length → s.n + 1 = s.cfg.maxEdges →
      exec .phCapture s = .next { s with
        samples := s.samples.set s.n ⟨s.last, s.cnt⟩, n := s.n + 1, last := s.lin, cnt := 0
        endc := true, phase := 5#4 }) ∧
    (s.lin ≠ s.last → s.n < s.samples.length → s.n + 1 ≠ s.cfg.maxEdges →
      exec .phCapture s = .next { s with
        samples := s.samples.set s.n ⟨s.last, s.cnt⟩, n := s.n + 1, last := s.lin, cnt := 0 })

/-- R28 (the model's choice, log 8): CAPTURE stops by name where it would store to an entry that does not exist, and EXTRACT
where it would read one. In a state with the invariant neither happens in its own phase. -/
def Obligations.MissingBufferEntriesFault : Prop :=
  (∀ s : State, s.lin ≠ s.last → s.samples.length ≤ s.n → exec .phCapture s = .fault (.sampleIndexOutOfRange s.n)) ∧
  (∀ s : State, s.samples.length < s.n → exec .phExtract s = .fault (.sampleIndexOutOfRange s.samples.length)) ∧
  (∀ s : State, StateInv s →
    (s.phase = 4#4 → ∃ t, exec .phCapture s = .next t) ∧ (s.phase = 5#4 → ∃ t, exec .phExtract s = .next t))

/-- R46: the frame of the sample buffer. No instruction but RESET changes an entry other than the one the CAPTURE rule
stores to, whose index is `State.recordIndex`; after every instruction that runs the rule that entry holds the pulse that
has just ended. -/
def Obligations.SampleBufferFrame : Prop :=
  ∀ (i : Instr) (s t : State), exec i s = .next t → i ≠ .reset →
    (RunsRule .capture i s → ∀ j : Nat, (s.recordIndex ≠ some j → t.samples[j]? = s.samples[j]?) ∧
      (s.recordIndex = some j → t.samples[j]? = some ⟨s.last, s.cnt⟩)) ∧
    (¬ RunsRule .capture i s → ∀ j : Nat, t.samples[j]? = s.samples[j]?)

/-- The step of R132 (`CaptureTakesItsSamplesAndDurations` has the whole capture): a tick of CAPTURE adds one to the recorded samples, their durations and the polls of the measurement under way
taken together, and a capture ended by the cap has spent `EDGE_CAP` polls on the unfinished measurement. -/
def Obligations.CaptureTicksAddUp : Prop :=
  ∀ s t : State, s.phase = 4#4 → exec .phCapture s = .next t →
    (t.phase = s.phase → t.n + durationSum t + t.cnt = s.n + durationSum s + s.cnt + 1) ∧
    (t.phase ≠ s.phase → t.endc = true → t.n + durationSum t = s.n + durationSum s + s.cnt + 1) ∧
    (t.phase ≠ s.phase → t.endc = false → t.n + durationSum t + s.cfg.edgeCap = s.n + durationSum s + s.cnt + 1)

/-- R72, R25: a stored sample is the level's bit above a duration of `ceil(log2(EDGE_CAP))` bits, 11 bits with the default
cap; no fewer bits hold every duration below the cap, a sample with such a duration is loaded as it was stored, and in a
state with the invariant every entry of the buffer is one. -/
def Obligations.StoredSamplesFitTheirEntries : Prop :=
  (∀ cap : Nat, 1 ≤ cap → ∀ width : Nat, durationBits cap ≤ width ↔ ∀ d < cap, d < 2 ^ width) ∧
  1 + durationBits 1000 = 11 ∧
  (∀ (cap : Nat) (x : Sample), x.duration < cap →
    (storedSample cap x).toNat = (if x.level = .high then 2 ^ durationBits cap else 0) + x.duration ∧
    loadedSample cap (storedSample cap x) = x) ∧
  (∀ s : State, StateInv s → ∀ x ∈ s.samples, loadedSample s.cfg.edgeCap (storedSample s.cfg.edgeCap x) = x)

/-! ## Bit extraction -/

/-- R140 to R144, for every content of the buffer: the bit samples are the HIGH samples of index 4 and above, the first 40
of them are packed MSB first, positions that receive no bit are 0, and fewer than 39 bits raise the error that names
the way the capture ended. -/
def Obligations.ExtractPacksTheBitSamples : Prop :=
  ∀ s : State, s.n ≤ s.samples.length →
    ∃ (bits : List Bool) (f : Frame),
      bits = ((((s.samples.take s.n).drop 4).filter fun x => x.level = .high).take 40).map
        (fun x => decide (x.duration > s.cfg.bitThreshold)) ∧
      (∀ j < 5, ∀ m < 8, (frameByte f j).getLsbD (7 - m) = bits.getD (8 * j + m) false) ∧
      exec .phExtract s = .next
        (if bits.length < 39 then
          { s with
            frame := f, bitcnt := BitVec.ofNat 6 bits.length, valid := false, done := true, phase := 0#4
            err := if s.endc = true then 3#3 else 2#3 }
        else { s with frame := f, bitcnt := BitVec.ofNat 6 bits.length, phase := 6#4 })

/-- R145, R146: on a capture whose levels alternate, bit sample `k` is `S[4 + 2k]` and the bit count is
`min(40, (n - 3) div 2)`. -/
def Obligations.BitSamplesAreTheEvenSamples : Prop :=
  ∀ s t : State, Alternates s → s.n ≤ s.samples.length → exec .phExtract s = .next t →
    t.bitcnt.toNat = min 40 ((s.n - 3) / 2) ∧
    (39 ≤ t.bitcnt.toNat ↔ 81 ≤ s.n) ∧ (t.bitcnt.toNat = 40 ↔ 83 ≤ s.n) ∧
    ∀ k < t.bitcnt.toNat, ∃ x, s.samples[4 + 2 * k]? = some x ∧ x.level = .high ∧
      (frameByte t.frame (k / 8)).getLsbD (7 - k % 8) = decide (x.duration > s.cfg.bitThreshold)

/-! ## Checksum and interpretation -/

/-- R155, R156. -/
def Obligations.CheckTick : Prop :=
  ∀ s : State,
    (s.frame.b4.toNat = (s.frame.b0.toNat + s.frame.b1.toNat + s.frame.b2.toNat + s.frame.b3.toNat) % 256 →
      exec .phCheck s = .next { s with phase := 7#4 }) ∧
    (s.frame.b4.toNat ≠ (s.frame.b0.toNat + s.frame.b1.toNat + s.frame.b2.toNat + s.frame.b3.toNat) % 256 →
      exec .phCheck s = .next { s with err := 4#3, valid := false, done := true, phase := 0#4 })

/-- R157: of the 256 values of `byte[4]` exactly one passes, the sum of the other four bytes modulo 256; any other value
ends the operation with ChecksumMismatch. -/
def Obligations.ExactlyOneChecksumByteIsAccepted : Prop :=
  ∀ s : State, ∃ good : Byte,
    good.toNat = (s.frame.b0.toNat + s.frame.b1.toNat + s.frame.b2.toNat + s.frame.b3.toNat) % 256 ∧ ∀ b : Byte, ∃ t,
    exec .phCheck { s with frame := { s.frame with b4 := b } } = .next t ∧
    (b = good → t.phase = 7#4) ∧
    (b ≠ good → t.phase = 0#4 ∧ t.done = true ∧ t.valid = false ∧ t.err = 4#3)

/-- R166: DHT11. -/
def Obligations.InterpretDht11 : Prop :=
  ∀ s : State, s.stype = 11#32 → ∃ hum temp : Half,
    hum.toNat = s.frame.b1.toNat * 10 ∧ temp.getLsbD 15 = false ∧
    (temp.extractLsb' 0 15).toNat = s.frame.b2.toNat * 10 ∧
    exec .phInterpret s = .next { s with
      hum := hum, temp := temp, valid := true, done := true, err := 0#3, phase := 0#4 }

/-- R167: DHT22 and AM2302; in numbers and bit for bit. -/
def Obligations.InterpretDht22 : Prop :=
  ∀ s : State, s.stype = 22#32 ∨ s.stype = 2302#32 → ∃ hum temp : Half,
    hum = s.frame.b0 ++ s.frame.b1 ∧ temp = s.frame.b2 ++ s.frame.b3 ∧
    hum.toNat = s.frame.b0.toNat * 256 + s.frame.b1.toNat ∧ temp.getLsbD 15 = s.frame.b2.getLsbD 7 ∧
    (temp.extractLsb' 0 15).toNat = s.frame.b2.toNat % 128 * 256 + s.frame.b3.toNat ∧
    exec .phInterpret s = .next { s with
      hum := hum, temp := temp, valid := true, done := true, err := 0#3, phase := 0#4 }

/-- R168: any other kind fails without touching the result registers. -/
def Obligations.InterpretUnsupportedKind : Prop :=
  ∀ s : State, s.stype ≠ 11#32 → s.stype ≠ 22#32 → s.stype ≠ 2302#32 →
    exec .phInterpret s = .next { s with err := 5#3, valid := false, done := true, phase := 0#4 }

/-- R161: CHECK and INTERPRET are functions of the frame and of TYPE alone. -/
def Obligations.CheckAndInterpretDependOnFrameAndType : Prop :=
  ∀ a b : State, a.frame = b.frame → a.stype = b.stype →
    (∃ t u, exec .phCheck a = .next t ∧ exec .phCheck b = .next u ∧ (t.phase = 7#4 ↔ u.phase = 7#4)) ∧
    (∃ t u, exec .phInterpret a = .next t ∧ exec .phInterpret b = .next u ∧ t.valid = u.valid ∧ t.err = u.err ∧
      (t.valid = true → t.hum = u.hum ∧ t.temp = u.temp))

/-! ## Whole-machine rules -/

/-- R31: the outputs. -/
def Obligations.OutputsFollowThePhase : Prop :=
  ∀ s : State,
    (s.outputs.loe = true ↔ s.phase = 1#4 ∨ s.phase = 2#4) ∧ (s.outputs.lout = .high ↔ s.phase = 1#4) ∧
    (s.outputs.busy = true ↔ s.phase ≠ 0#4) ∧ s.outputs.done = s.done ∧ s.outputs.valid = s.valid

/-- R13: the successor phases of a tick without reset in which no START is accepted. -/
def Obligations.PhaseSuccessors : Prop :=
  ∀ s t : State, exec .nop s = .next t →
    (s.phase.toNat, t.phase.toNat) ∈
      [(0, 0), (1, 1), (1, 2), (2, 2), (2, 3), (3, 3), (3, 4), (3, 0), (4, 4), (4, 5), (5, 6), (5, 0), (6, 7), (6, 0),
        (7, 0)]

/-- R57, R58: the level of the line matters to a tick only in WAIT_RESP and CAPTURE. -/
def Obligations.LineIsIgnoredOutsideWaitAndCapture : Prop :=
  ∀ (i : Instr) (s t : State) (l : Level), s.phase ≠ 3#4 → s.phase ≠ 4#4 → i ≠ .phWaitResp → i ≠ .phCapture →
    exec i s = .next t → exec i { s with lin := l } = .next { t with lin := l }

/-- R184, R185, R20: a tick that ends an operation returns the block to IDLE, with a reading or with one error; an error
leaves HUM, TEMP and TYPE as they were. -/
def Obligations.EndOfAnOperation : Prop :=
  ∀ (i : Instr) (s t : State), exec i s = .next t → s.done = false → t.done = true →
    t.phase = 0#4 ∧ t.stype = s.stype ∧
    ((t.valid = true ∧ t.err = 0#3) ∨
      (t.valid = false ∧ 1 ≤ t.err.toNat ∧ t.err.toNat ≤ 5 ∧ t.hum = s.hum ∧ t.temp = s.temp))

/-- R134, R211: no instruction but RESET leaves a running operation for IDLE without its end: DONE is set then. -/
def Obligations.OnlyResetAbandonsAnOperation : Prop :=
  ∀ (i : Instr) (s t : State), exec i s = .next t → i ≠ .reset → s.phase ≠ 0#4 → t.phase = 0#4 → t.done = true

/-- R104, R168: a reading appears only in an operation whose kind is one of the three supported codes, and only from
INTERPRET. -/
def Obligations.ReadingNeedsASupportedKind : Prop :=
  ∀ (i : Instr) (s t : State), exec i s = .next t → s.valid = false → t.valid = true →
    (i = .phInterpret ∨ s.phase = 7#4) ∧ (s.stype = 11#32 ∨ s.stype = 22#32 ∨ s.stype = 2302#32)

/-- R17, R18: HUM and TEMP are written only by RESET and by INTERPRET on success. -/
def Obligations.ReadingIsWrittenOnlyOnSuccess : Prop :=
  ∀ (i : Instr) (s t : State), exec i s = .next t → (t.hum ≠ s.hum ∨ t.temp ≠ s.temp) →
    i = .reset ∨ ((i = .phInterpret ∨ s.phase = 7#4) ∧ t.valid = true ∧ t.done = true ∧ t.err = 0#3 ∧ t.phase = 0#4)

/-- R14: TYPE is written only by RESET and by an accepted START. -/
def Obligations.TypeIsWrittenOnlyByStart : Prop :=
  ∀ (i : Instr) (s t : State), exec i s = .next t → t.stype ≠ s.stype →
    i = .reset ∨ (s.phase = 0#4 ∧ t.phase = 1#4 ∧
      ((i = .readDht11 ∧ t.stype = 11#32) ∨ (i = .readDht22 ∧ t.stype = 22#32) ∨
        (i = .readAm2302 ∧ t.stype = 2302#32) ∨ i = .readOther t.stype))

/-- R19, R15, R16: who may change ENDC, the frame and BITCNT. -/
def Obligations.CaptureFlagAndFrameWriters : Prop :=
  ∀ (i : Instr) (s t : State), exec i s = .next t → i ≠ .reset → ¬ (s.phase = 0#4 ∧ t.phase = 1#4) →
    (t.endc ≠ s.endc → i = .phCapture ∨ s.phase = 4#4) ∧
    (t.frame ≠ s.frame ∨ t.bitcnt ≠ s.bitcnt → i = .phExtract ∨ s.phase = 5#4)

/-- R6, R34: no instruction changes the configuration, the tick count or the ticks to come; they are no registers. -/
def Obligations.ConfigurationAndInputsAreNotWritten : Prop :=
  ∀ (i : Instr) (s t : State), exec i s = .next t →
    t.cfg = s.cfg ∧ t.lin = s.lin ∧ t.tick = s.tick ∧ t.script = s.script

/-! ## Invariant, safety, termination, isolation -/

/-- The invariant of R33 holds after reset. -/
def Obligations.ResetMeetsTheInvariant : Prop := StateInv State.reset

/-- The invariant of R33 is kept by every step, from every state that meets it. -/
def Obligations.StepKeepsTheInvariant : Prop :=
  ∀ s t : State, StateInv s → step s = .next t → StateInv t

/-- R33: it holds in every state reached from reset, under every valid configuration and every script. -/
def Obligations.EveryRunFromResetMeetsTheInvariant : Prop :=
  ∀ (c : Config) (script : List TickIn) (k : Nat) (t : State), c.Valid →
    run k { State.resetWith c with script := script } = .next t → StateInv t

/-- R187, R77: in a state with the invariant no tick faults, and only a reserved access is refused. -/
def Obligations.NoTickFaults : Prop :=
  ∀ s : State, StateInv s → (∃ t, step s = .next t) ∨
    (s.inputs.rst = false ∧ ∃ why, decodeHop s.inputs.hop = .error why ∧ step s = .refused (.reservedAccess why))

/-- R227: from every state in which an operation runs, whatever the line does, the operation ends within the bound; the
host only has to leave the block running. -/
def Obligations.EveryOperationEnds : Prop :=
  ∀ s : State, StateInv s → s.phase ≠ 0#4 → QuietFor (operationBound s.cfg) s →
    ∃ k t, k ≤ operationBound s.cfg ∧ run k s = .next t ∧ t.phase = 0#4 ∧ t.done = true

/-- R231, R29: an accepted START forgets everything before it but the old reading, also how many ticks it took. -/
def Obligations.StartForgetsTheHistory : Prop :=
  ∀ (a b : State) (i : Instr), a.phase = 0#4 → b.phase = 0#4 →
    i = .readDht11 ∨ i = .readDht22 ∨ i = .readAm2302 ∨ (∃ v, i = .readOther v) →
    a.cfg = b.cfg → a.samples.length = b.samples.length →
    ∃ t u, exec i a = .next t ∧ exec i b = .next u ∧ SameOperation t u

/-- R231: two states that run the same operation, at whatever ticks, go on doing so under the same inputs, show the same
STATUS, and when one has just ended with a reading both have the same one. -/
def Obligations.SameInputsGiveTheSameOutcome : Prop :=
  ∀ (k : Nat) (a b t : State), SameOperation a b → SameInputsFor k a b → run k a = .next t →
    ∃ u, run k b = .next u ∧ SameOperation t u ∧ statusWord t = statusWord u ∧
      (a.valid = false → t.valid = true → t.hum = u.hum ∧ t.temp = u.temp)

/-- R231: while an operation runs only the line matters. Two states that run the same operation under the same levels end in
the same STATUS, and with the same reading if there is one, whatever each host reads, writes or starts meanwhile. -/
def Obligations.OutcomeDependsOnTheLineAlone : Prop :=
  ∀ (k : Nat) (a b t : State), SameOperation a b → QuietFor k a → QuietFor k b →
    (∀ j < k, a.levelAt j = b.levelAt j) → (∀ j < k, ∃ u, run j a = .next u ∧ u.phase ≠ 0#4) → run k a = .next t →
    ∃ u, run k b = .next u ∧ SameOperation t u ∧ statusWord t = statusWord u ∧
      (a.valid = false → t.valid = true → t.hum = u.hum ∧ t.temp = u.temp)

/-- R132: a whole capture, whatever the line does. It ends, after as many ticks as it recorded samples plus their durations,
plus `EDGE_CAP` if the cap ended it, which is at most `MAX_EDGES × EDGE_CAP`; until then the ticks spent are the samples, the
durations and the count under way. -/
def Obligations.CaptureTakesItsSamplesAndDurations : Prop :=
  ∀ s : State, s.cfg.Valid → s.samples.length = s.cfg.maxEdges → s.phase = 4#4 → s.n = 0 → s.cnt = 0 →
    QuietFor (s.cfg.maxEdges * s.cfg.edgeCap) s →
    ∃ k t, k ≤ s.cfg.maxEdges * s.cfg.edgeCap ∧ run k s = .next t ∧ t.phase = 5#4 ∧
      (t.endc = true → t.n = s.cfg.maxEdges ∧ k = t.n + durationSum t) ∧
      (t.endc = false → k = t.n + durationSum t + s.cfg.edgeCap) ∧
      ∀ j < k, ∃ u, run j s = .next u ∧ u.phase = 4#4 ∧ j = u.n + durationSum u + u.cnt
end

