-- ==== Sys2Proof/Laws/Decode.lean ====
section
/-! SUPPORT. What the decoder can answer: phase codes, access checks, host operations. -/

namespace Sys2Proof

@[simp] theorem phaseOf_code (p : Phase) : phaseOf p.code = some p := by cases p <;> rfl

theorem code_of_phaseOf {c : BitVec 4} {p : Phase} (h : phaseOf c = some p) : c = p.code := by
  revert h; revert c; cases p <;> decide

theorem phaseOf_eq_none_iff (c : BitVec 4) : phaseOf c = none ↔ 8 ≤ c.toNat := by
  revert c; decide

@[simp] theorem idle_code : Phase.idle.code = 0#4 := rfl
@[simp] theorem wakeHigh_code : Phase.wakeHigh.code = 1#4 := rfl
@[simp] theorem wakeLow_code : Phase.wakeLow.code = 2#4 := rfl
@[simp] theorem waitResp_code : Phase.waitResp.code = 3#4 := rfl
@[simp] theorem capture_code : Phase.capture.code = 4#4 := rfl
@[simp] theorem extract_code : Phase.extract.code = 5#4 := rfl
@[simp] theorem check_code : Phase.check.code = 6#4 := rfl
@[simp] theorem interpret_code : Phase.interpret.code = 7#4 := rfl

theorem code_inj (p q : Phase) : p.code = q.code ↔ p = q := by
  cases p <;> cases q <;> decide

theorem legal_phase_is_named {c : BitVec 4} (h : c.toNat < 8) : ∃ p : Phase, c = p.code := by
  cases hp : phaseOf c with
  | some p => exact ⟨p, code_of_phaseOf hp⟩
  | none => exact absurd ((phaseOf_eq_none_iff c).1 hp) (by omega)

theorem decodePhase_ok_iff (c : BitVec 4) (i : Instr) : decodePhase c = .ok i ↔ ∃ p : Phase, c = p.code ∧ i = p.instr := by
  unfold decodePhase
  constructor
  · intro h
    cases hp : phaseOf c with
    | none => simp [hp] at h
    | some p => exact ⟨p, code_of_phaseOf hp, by simpa [hp] using h.symm⟩
  · rintro ⟨p, rfl, rfl⟩
    simp

theorem checkAccess_ok_iff (off : Word) (size : Nat) (u : Unit) :
    checkAccess off size = .ok u ↔ size = 4 ∧ off.toNat % 4 = 0 := by
  unfold checkAccess
  split
  · split <;> simp_all
  · simp_all

/-- The offsets of R42, and that each is aligned. -/
theorem known_offset_aligned {off : Word}
    (h : off = 0x00#32 ∨ off = 0x04#32 ∨ off = 0x08#32 ∨ off = 0x0C#32 ∨ off = 0x10#32) : off.toNat % 4 = 0 := by
  rcases h with rfl | rfl | rfl | rfl | rfl <;> decide

theorem decodeRead_ok_iff (off : Word) (i : Instr) : decodeRead off = .ok i ↔
    (off = 0x00#32 ∧ i = .rdCmd) ∨ (off = 0x04#32 ∧ i = .rdStatus) ∨ (off = 0x08#32 ∧ i = .rdHum) ∨
      (off = 0x0C#32 ∧ i = .rdTemp) ∨ (off = 0x10#32 ∧ i = .rdType) := by
  constructor
  · unfold decodeRead
    intro h
    repeat' split at h
    all_goals simp_all
  · rintro (⟨rfl, rfl⟩ | ⟨rfl, rfl⟩ | ⟨rfl, rfl⟩ | ⟨rfl, rfl⟩ | ⟨rfl, rfl⟩) <;> rfl

theorem decodeWrite_ok_iff (off v : Word) (i : Instr) : decodeWrite off v = .ok i ↔
    (off = 0x00#32 ∧ i = decodeCommand v) ∨ (off = 0x04#32 ∧ i = .wrStatus v) ∨ (off = 0x08#32 ∧ i = .wrHum v) ∨
      (off = 0x0C#32 ∧ i = .wrTemp v) ∨ (off = 0x10#32 ∧ i = .wrType v) := by
  constructor
  · unfold decodeWrite
    intro h
    repeat' split at h
    all_goals simp_all
  · rintro (⟨rfl, rfl⟩ | ⟨rfl, rfl⟩ | ⟨rfl, rfl⟩ | ⟨rfl, rfl⟩ | ⟨rfl, rfl⟩) <;> rfl

/-- The four forms a CMD write can decode to (R61). -/
theorem decodeCommand_cases (v : Word) :
    (v = 11#32 ∧ decodeCommand v = .readDht11) ∨ (v = 22#32 ∧ decodeCommand v = .readDht22) ∨
      (v = 2302#32 ∧ decodeCommand v = .readAm2302) ∨
      (v ≠ 11#32 ∧ v ≠ 22#32 ∧ v ≠ 2302#32 ∧ decodeCommand v = .readOther v) := by
  unfold decodeCommand
  repeat' split
  all_goals simp_all

/-- What a host operation can decode to. -/
theorem decodeHop_ok_cases {h : HostOp} {i : Instr} (hd : decodeHop h = .ok i) :
    (h = .none ∧ i = .nop) ∨
    (∃ off, h = .read off 4 ∧ decodeRead off = .ok i) ∨
    (∃ off v, h = .write off 4 v ∧ decodeWrite off v = .ok i) := by
  cases h with
  | none => exact .inl ⟨rfl, by simpa [decodeHop] using hd.symm⟩
  | read off size =>
    simp only [decodeHop] at hd
    split at hd
    · rename_i u hu
      obtain ⟨rfl, -⟩ := (checkAccess_ok_iff off size u).1 hu
      exact .inr (.inl ⟨off, rfl, hd⟩)
    · cases hd
  | write off size v =>
    simp only [decodeHop] at hd
    split at hd
    · rename_i u hu
      obtain ⟨rfl, -⟩ := (checkAccess_ok_iff off size u).1 hu
      exact .inr (.inr ⟨off, v, rfl, hd⟩)
    · cases hd

theorem checkAccess_known {off : Word}
    (h : off = 0x00#32 ∨ off = 0x04#32 ∨ off = 0x08#32 ∨ off = 0x0C#32 ∨ off = 0x10#32) :
    checkAccess off 4 = .ok () := (checkAccess_ok_iff off 4 ()).2 ⟨rfl, known_offset_aligned h⟩

theorem decodeHop_read_known {off : Word} {i : Instr} (hd : decodeRead off = .ok i) :
    decodeHop (.read off 4) = .ok i := by
  have hk : checkAccess off 4 = .ok () := checkAccess_known (by
    rcases (decodeRead_ok_iff off i).1 hd with h | h | h | h | h <;> simp [h.1])
  simp [decodeHop, hk, hd]

theorem decodeHop_write_known {off v : Word} {i : Instr} (hd : decodeWrite off v = .ok i) :
    decodeHop (.write off 4 v) = .ok i := by
  have hk : checkAccess off 4 = .ok () := checkAccess_known (by
    rcases (decodeWrite_ok_iff off v i).1 hd with h | h | h | h | h <;> simp [h.1])
  simp [decodeHop, hk, hd]

end Sys2Proof
end

