-- ==== Sys2Proof/Laws/State.lean ====
section
/-! SUPPORT. One lemma per field per update of State, so that no proof unfolds a record update. -/

namespace Sys2Proof.Machine

variable (s : State)

@[simp] theorem State.goto_cfg (p : Phase) : (s.goto p).cfg = s.cfg := rfl
@[simp] theorem State.goto_phase (p : Phase) : (s.goto p).phase = p.code := rfl
@[simp] theorem State.goto_stype (p : Phase) : (s.goto p).stype = s.stype := rfl
@[simp] theorem State.goto_frame (p : Phase) : (s.goto p).frame = s.frame := rfl
@[simp] theorem State.goto_bitcnt (p : Phase) : (s.goto p).bitcnt = s.bitcnt := rfl
@[simp] theorem State.goto_hum (p : Phase) : (s.goto p).hum = s.hum := rfl
@[simp] theorem State.goto_temp (p : Phase) : (s.goto p).temp = s.temp := rfl
@[simp] theorem State.goto_done (p : Phase) : (s.goto p).done = s.done := rfl
@[simp] theorem State.goto_valid (p : Phase) : (s.goto p).valid = s.valid := rfl
@[simp] theorem State.goto_endc (p : Phase) : (s.goto p).endc = s.endc := rfl
@[simp] theorem State.goto_err (p : Phase) : (s.goto p).err = s.err := rfl
@[simp] theorem State.goto_hold (p : Phase) : (s.goto p).hold = s.hold := rfl
@[simp] theorem State.goto_wcnt (p : Phase) : (s.goto p).wcnt = s.wcnt := rfl
@[simp] theorem State.goto_last (p : Phase) : (s.goto p).last = s.last := rfl
@[simp] theorem State.goto_cnt (p : Phase) : (s.goto p).cnt = s.cnt := rfl
@[simp] theorem State.goto_n (p : Phase) : (s.goto p).n = s.n := rfl
@[simp] theorem State.goto_samples (p : Phase) : (s.goto p).samples = s.samples := rfl
@[simp] theorem State.goto_hrdata (p : Phase) : (s.goto p).hrdata = s.hrdata := rfl
@[simp] theorem State.goto_lin (p : Phase) : (s.goto p).lin = s.lin := rfl
@[simp] theorem State.goto_tick (p : Phase) : (s.goto p).tick = s.tick := rfl
@[simp] theorem State.goto_script (p : Phase) : (s.goto p).script = s.script := rfl

@[simp] theorem State.raise_cfg (e : ErrorKind) : (s.raise e).cfg = s.cfg := rfl
@[simp] theorem State.raise_phase (e : ErrorKind) : (s.raise e).phase = Phase.idle.code := rfl
@[simp] theorem State.raise_stype (e : ErrorKind) : (s.raise e).stype = s.stype := rfl
@[simp] theorem State.raise_frame (e : ErrorKind) : (s.raise e).frame = s.frame := rfl
@[simp] theorem State.raise_bitcnt (e : ErrorKind) : (s.raise e).bitcnt = s.bitcnt := rfl
@[simp] theorem State.raise_hum (e : ErrorKind) : (s.raise e).hum = s.hum := rfl
@[simp] theorem State.raise_temp (e : ErrorKind) : (s.raise e).temp = s.temp := rfl
@[simp] theorem State.raise_done (e : ErrorKind) : (s.raise e).done = true := rfl
@[simp] theorem State.raise_valid (e : ErrorKind) : (s.raise e).valid = false := rfl
@[simp] theorem State.raise_endc (e : ErrorKind) : (s.raise e).endc = s.endc := rfl
@[simp] theorem State.raise_err (e : ErrorKind) : (s.raise e).err = e.code := rfl
@[simp] theorem State.raise_hold (e : ErrorKind) : (s.raise e).hold = s.hold := rfl
@[simp] theorem State.raise_wcnt (e : ErrorKind) : (s.raise e).wcnt = s.wcnt := rfl
@[simp] theorem State.raise_last (e : ErrorKind) : (s.raise e).last = s.last := rfl
@[simp] theorem State.raise_cnt (e : ErrorKind) : (s.raise e).cnt = s.cnt := rfl
@[simp] theorem State.raise_n (e : ErrorKind) : (s.raise e).n = s.n := rfl
@[simp] theorem State.raise_samples (e : ErrorKind) : (s.raise e).samples = s.samples := rfl
@[simp] theorem State.raise_hrdata (e : ErrorKind) : (s.raise e).hrdata = s.hrdata := rfl
@[simp] theorem State.raise_lin (e : ErrorKind) : (s.raise e).lin = s.lin := rfl
@[simp] theorem State.raise_tick (e : ErrorKind) : (s.raise e).tick = s.tick := rfl
@[simp] theorem State.raise_script (e : ErrorKind) : (s.raise e).script = s.script := rfl

@[simp] theorem State.succeed_cfg : s.succeed.cfg = s.cfg := rfl
@[simp] theorem State.succeed_phase : s.succeed.phase = Phase.idle.code := rfl
@[simp] theorem State.succeed_stype : s.succeed.stype = s.stype := rfl
@[simp] theorem State.succeed_frame : s.succeed.frame = s.frame := rfl
@[simp] theorem State.succeed_bitcnt : s.succeed.bitcnt = s.bitcnt := rfl
@[simp] theorem State.succeed_hum : s.succeed.hum = s.hum := rfl
@[simp] theorem State.succeed_temp : s.succeed.temp = s.temp := rfl
@[simp] theorem State.succeed_done : s.succeed.done = true := rfl
@[simp] theorem State.succeed_valid : s.succeed.valid = true := rfl
@[simp] theorem State.succeed_endc : s.succeed.endc = s.endc := rfl
@[simp] theorem State.succeed_err : s.succeed.err = 0#3 := rfl
@[simp] theorem State.succeed_hold : s.succeed.hold = s.hold := rfl
@[simp] theorem State.succeed_wcnt : s.succeed.wcnt = s.wcnt := rfl
@[simp] theorem State.succeed_last : s.succeed.last = s.last := rfl
@[simp] theorem State.succeed_cnt : s.succeed.cnt = s.cnt := rfl
@[simp] theorem State.succeed_n : s.succeed.n = s.n := rfl
@[simp] theorem State.succeed_samples : s.succeed.samples = s.samples := rfl
@[simp] theorem State.succeed_hrdata : s.succeed.hrdata = s.hrdata := rfl
@[simp] theorem State.succeed_lin : s.succeed.lin = s.lin := rfl
@[simp] theorem State.succeed_tick : s.succeed.tick = s.tick := rfl
@[simp] theorem State.succeed_script : s.succeed.script = s.script := rfl

@[simp] theorem State.start_cfg (v : Word) : (s.start v).cfg = s.cfg := rfl
@[simp] theorem State.start_phase (v : Word) : (s.start v).phase = Phase.wakeHigh.code := rfl
@[simp] theorem State.start_stype (v : Word) : (s.start v).stype = v := rfl
@[simp] theorem State.start_frame (v : Word) : (s.start v).frame = Frame.zero := rfl
@[simp] theorem State.start_bitcnt (v : Word) : (s.start v).bitcnt = 0#6 := rfl
@[simp] theorem State.start_hum (v : Word) : (s.start v).hum = s.hum := rfl
@[simp] theorem State.start_temp (v : Word) : (s.start v).temp = s.temp := rfl
@[simp] theorem State.start_done (v : Word) : (s.start v).done = false := rfl
@[simp] theorem State.start_valid (v : Word) : (s.start v).valid = false := rfl
@[simp] theorem State.start_endc (v : Word) : (s.start v).endc = false := rfl
@[simp] theorem State.start_err (v : Word) : (s.start v).err = 0#3 := rfl
@[simp] theorem State.start_hold (v : Word) : (s.start v).hold = 0 := rfl
@[simp] theorem State.start_wcnt (v : Word) : (s.start v).wcnt = 0 := rfl
@[simp] theorem State.start_last (v : Word) : (s.start v).last = .high := rfl
@[simp] theorem State.start_cnt (v : Word) : (s.start v).cnt = 0 := rfl
@[simp] theorem State.start_n (v : Word) : (s.start v).n = 0 := rfl
@[simp] theorem State.start_samples (v : Word) : (s.start v).samples = s.samples := rfl
@[simp] theorem State.start_hrdata (v : Word) : (s.start v).hrdata = s.hrdata := rfl
@[simp] theorem State.start_lin (v : Word) : (s.start v).lin = s.lin := rfl
@[simp] theorem State.start_tick (v : Word) : (s.start v).tick = s.tick := rfl
@[simp] theorem State.start_script (v : Word) : (s.start v).script = s.script := rfl

@[simp] theorem State.toReset_cfg : s.toReset.cfg = s.cfg := rfl
@[simp] theorem State.toReset_phase : s.toReset.phase = 0#4 := rfl
@[simp] theorem State.toReset_stype : s.toReset.stype = 0#32 := rfl
@[simp] theorem State.toReset_frame : s.toReset.frame = Frame.zero := rfl
@[simp] theorem State.toReset_bitcnt : s.toReset.bitcnt = 0#6 := rfl
@[simp] theorem State.toReset_hum : s.toReset.hum = 0#16 := rfl
@[simp] theorem State.toReset_temp : s.toReset.temp = 0#16 := rfl
@[simp] theorem State.toReset_done : s.toReset.done = false := rfl
@[simp] theorem State.toReset_valid : s.toReset.valid = false := rfl
@[simp] theorem State.toReset_endc : s.toReset.endc = false := rfl
@[simp] theorem State.toReset_err : s.toReset.err = 0#3 := rfl
@[simp] theorem State.toReset_hold : s.toReset.hold = 0 := rfl
@[simp] theorem State.toReset_wcnt : s.toReset.wcnt = 0 := rfl
@[simp] theorem State.toReset_last : s.toReset.last = .high := rfl
@[simp] theorem State.toReset_cnt : s.toReset.cnt = 0 := rfl
@[simp] theorem State.toReset_n : s.toReset.n = 0 := rfl
@[simp] theorem State.toReset_samples : s.toReset.samples = freeBuffer s.cfg s.tick := rfl
@[simp] theorem State.toReset_hrdata : s.toReset.hrdata = none := rfl
@[simp] theorem State.toReset_lin : s.toReset.lin = s.lin := rfl
@[simp] theorem State.toReset_tick : s.toReset.tick = s.tick := rfl
@[simp] theorem State.toReset_script : s.toReset.script = s.script := rfl

@[simp] theorem State.record_cfg : s.record.cfg = s.cfg := rfl
@[simp] theorem State.record_phase : s.record.phase = s.phase := rfl
@[simp] theorem State.record_stype : s.record.stype = s.stype := rfl
@[simp] theorem State.record_frame : s.record.frame = s.frame := rfl
@[simp] theorem State.record_bitcnt : s.record.bitcnt = s.bitcnt := rfl
@[simp] theorem State.record_hum : s.record.hum = s.hum := rfl
@[simp] theorem State.record_temp : s.record.temp = s.temp := rfl
@[simp] theorem State.record_done : s.record.done = s.done := rfl
@[simp] theorem State.record_valid : s.record.valid = s.valid := rfl
@[simp] theorem State.record_endc : s.record.endc = s.endc := rfl
@[simp] theorem State.record_err : s.record.err = s.err := rfl
@[simp] theorem State.record_hold : s.record.hold = s.hold := rfl
@[simp] theorem State.record_wcnt : s.record.wcnt = s.wcnt := rfl
@[simp] theorem State.record_last : s.record.last = s.lin := rfl
@[simp] theorem State.record_cnt : s.record.cnt = 0 := rfl
@[simp] theorem State.record_n : s.record.n = s.n + 1 := rfl
@[simp] theorem State.record_samples : s.record.samples = s.samples.set s.n ⟨s.last, s.cnt⟩ := rfl
@[simp] theorem State.record_hrdata : s.record.hrdata = s.hrdata := rfl
@[simp] theorem State.record_lin : s.record.lin = s.lin := rfl
@[simp] theorem State.record_tick : s.record.tick = s.tick := rfl
@[simp] theorem State.record_script : s.record.script = s.script := rfl

@[simp] theorem State.withReadData_cfg (w : Word) : (s.withReadData w).cfg = s.cfg := rfl
@[simp] theorem State.withReadData_phase (w : Word) : (s.withReadData w).phase = s.phase := rfl
@[simp] theorem State.withReadData_stype (w : Word) : (s.withReadData w).stype = s.stype := rfl
@[simp] theorem State.withReadData_frame (w : Word) : (s.withReadData w).frame = s.frame := rfl
@[simp] theorem State.withReadData_bitcnt (w : Word) : (s.withReadData w).bitcnt = s.bitcnt := rfl
@[simp] theorem State.withReadData_hum (w : Word) : (s.withReadData w).hum = s.hum := rfl
@[simp] theorem State.withReadData_temp (w : Word) : (s.withReadData w).temp = s.temp := rfl
@[simp] theorem State.withReadData_done (w : Word) : (s.withReadData w).done = s.done := rfl
@[simp] theorem State.withReadData_valid (w : Word) : (s.withReadData w).valid = s.valid := rfl
@[simp] theorem State.withReadData_endc (w : Word) : (s.withReadData w).endc = s.endc := rfl
@[simp] theorem State.withReadData_err (w : Word) : (s.withReadData w).err = s.err := rfl
@[simp] theorem State.withReadData_hold (w : Word) : (s.withReadData w).hold = s.hold := rfl
@[simp] theorem State.withReadData_wcnt (w : Word) : (s.withReadData w).wcnt = s.wcnt := rfl
@[simp] theorem State.withReadData_last (w : Word) : (s.withReadData w).last = s.last := rfl
@[simp] theorem State.withReadData_cnt (w : Word) : (s.withReadData w).cnt = s.cnt := rfl
@[simp] theorem State.withReadData_n (w : Word) : (s.withReadData w).n = s.n := rfl
@[simp] theorem State.withReadData_samples (w : Word) : (s.withReadData w).samples = s.samples := rfl
@[simp] theorem State.withReadData_hrdata (w : Word) : (s.withReadData w).hrdata = some w := rfl
@[simp] theorem State.withReadData_lin (w : Word) : (s.withReadData w).lin = s.lin := rfl
@[simp] theorem State.withReadData_tick (w : Word) : (s.withReadData w).tick = s.tick := rfl
@[simp] theorem State.withReadData_script (w : Word) : (s.withReadData w).script = s.script := rfl

@[simp] theorem beginTick_cfg : (beginTick s).cfg = s.cfg := rfl
@[simp] theorem beginTick_phase : (beginTick s).phase = s.phase := rfl
@[simp] theorem beginTick_stype : (beginTick s).stype = s.stype := rfl
@[simp] theorem beginTick_frame : (beginTick s).frame = s.frame := rfl
@[simp] theorem beginTick_bitcnt : (beginTick s).bitcnt = s.bitcnt := rfl
@[simp] theorem beginTick_hum : (beginTick s).hum = s.hum := rfl
@[simp] theorem beginTick_temp : (beginTick s).temp = s.temp := rfl
@[simp] theorem beginTick_done : (beginTick s).done = s.done := rfl
@[simp] theorem beginTick_valid : (beginTick s).valid = s.valid := rfl
@[simp] theorem beginTick_endc : (beginTick s).endc = s.endc := rfl
@[simp] theorem beginTick_err : (beginTick s).err = s.err := rfl
@[simp] theorem beginTick_hold : (beginTick s).hold = s.hold := rfl
@[simp] theorem beginTick_wcnt : (beginTick s).wcnt = s.wcnt := rfl
@[simp] theorem beginTick_last : (beginTick s).last = s.last := rfl
@[simp] theorem beginTick_cnt : (beginTick s).cnt = s.cnt := rfl
@[simp] theorem beginTick_n : (beginTick s).n = s.n := rfl
@[simp] theorem beginTick_samples : (beginTick s).samples = s.samples := rfl
@[simp] theorem beginTick_hrdata : (beginTick s).hrdata = none := rfl
@[simp] theorem beginTick_lin : (beginTick s).lin = s.level := rfl
@[simp] theorem beginTick_tick : (beginTick s).tick = s.tick + 1 := rfl
@[simp] theorem beginTick_script : (beginTick s).script = s.script.tail := rfl

@[simp] theorem State.extracted_cfg : s.extracted.cfg = s.cfg := rfl
@[simp] theorem State.extracted_phase : s.extracted.phase = s.phase := rfl
@[simp] theorem State.extracted_stype : s.extracted.stype = s.stype := rfl
@[simp] theorem State.extracted_frame : s.extracted.frame = (extractAll s.cfg.bitThreshold (s.samples.take s.n)).2 := rfl
@[simp] theorem State.extracted_bitcnt : s.extracted.bitcnt = BitVec.ofNat 6 (extractAll s.cfg.bitThreshold (s.samples.take s.n)).1 := rfl
@[simp] theorem State.extracted_hum : s.extracted.hum = s.hum := rfl
@[simp] theorem State.extracted_temp : s.extracted.temp = s.temp := rfl
@[simp] theorem State.extracted_done : s.extracted.done = s.done := rfl
@[simp] theorem State.extracted_valid : s.extracted.valid = s.valid := rfl
@[simp] theorem State.extracted_endc : s.extracted.endc = s.endc := rfl
@[simp] theorem State.extracted_err : s.extracted.err = s.err := rfl
@[simp] theorem State.extracted_hold : s.extracted.hold = s.hold := rfl
@[simp] theorem State.extracted_wcnt : s.extracted.wcnt = s.wcnt := rfl
@[simp] theorem State.extracted_last : s.extracted.last = s.last := rfl
@[simp] theorem State.extracted_cnt : s.extracted.cnt = s.cnt := rfl
@[simp] theorem State.extracted_n : s.extracted.n = s.n := rfl
@[simp] theorem State.extracted_samples : s.extracted.samples = s.samples := rfl
@[simp] theorem State.extracted_hrdata : s.extracted.hrdata = s.hrdata := rfl
@[simp] theorem State.extracted_lin : s.extracted.lin = s.lin := rfl
@[simp] theorem State.extracted_tick : s.extracted.tick = s.tick := rfl
@[simp] theorem State.extracted_script : s.extracted.script = s.script := rfl

end Sys2Proof.Machine
end

