-- ==== Sys2Proof/Laws/Ops.lean ====
section
/-! SUPPORT. What the shared operations, the phase rule, an instruction and a step can do: one lemma each, which proofs cite
instead of unfolding. -/

namespace Sys2Proof.Machine

theorem mapNext_eq_next {f : State → State} {r : Result} {t : State} :
    mapNext f r = .next t ↔ ∃ u, r = .next u ∧ t = f u := by
  cases r <;> simp [mapNext, eq_comm]

/-! ### The phase rule -/

theorem phaseStep_of_code {s : State} {p : Phase} (h : s.phase = p.code) : phaseStep s = exec p.instr s := by
  unfold phaseStep
  rw [h, phaseOf_code]
  cases p <;> rfl

theorem phaseStep_stuck {s : State} (h : 8 ≤ s.phase.toNat) : phaseStep s = .fault (.stuckPhase s.phase) := by
  unfold phaseStep
  rw [(phaseOf_eq_none_iff s.phase).2 h]

/-- The phase rule answers a next state only through the instruction of a legal phase. -/
theorem phaseStep_next_cases {s t : State} (h : phaseStep s = .next t) :
    ∃ p : Phase, s.phase = p.code ∧ exec p.instr s = .next t := by
  by_cases hp : s.phase.toNat < 8
  · obtain ⟨p, hp⟩ := legal_phase_is_named hp
    exact ⟨p, hp, by rw [← phaseStep_of_code hp, h]⟩
  · rw [phaseStep_stuck (by omega)] at h
    cases h

theorem execPhCapture_eq_next {s t : State} : execPhCapture s = .next t ↔
    (s.n < s.samples.length ∨ s.lin = s.last) ∧ t = if s.lin = s.last then s.pulseGoesOn else s.pulseEnds := by
  unfold execPhCapture
  split <;> simp_all [eq_comm]

theorem execPhExtract_eq_next {s t : State} : execPhExtract s = .next t ↔
    s.n ≤ s.samples.length ∧
      t = if (extractAll s.cfg.bitThreshold (s.samples.take s.n)).1 < minBits
        then s.extracted.raise (shortFrameError s.endc) else s.extracted.goto .check := by
  unfold execPhExtract
  split <;> simp_all [eq_comm]

/-- Every next state of a phase instruction, written out once. -/
theorem phaseInstr_next_cases {p : Phase} {s t : State} (h : exec p.instr s = .next t) :
    (p = .idle ∧ t = s) ∨
    (p = .wakeHigh ∧ t = if s.hold + 1 = s.cfg.wakeHighTicks then { s.goto .wakeLow with hold := 0 }
      else { s with hold := s.hold + 1 }) ∨
    (p = .wakeLow ∧ t = if s.hold + 1 = s.cfg.wakeLowTicks then { s.goto .waitResp with hold := 0, wcnt := 0 }
      else { s with hold := s.hold + 1 }) ∨
    (p = .waitResp ∧ t = if s.lin = .low then { s.goto .capture with last := .high, cnt := 0, n := 0 }
      else if s.wcnt + 1 = s.cfg.respCap then s.raise .noResponse else { s with wcnt := s.wcnt + 1 }) ∨
    (p = .capture ∧ (s.n < s.samples.length ∨ s.lin = s.last) ∧
      t = if s.lin = s.last then s.pulseGoesOn else s.pulseEnds) ∨
    (p = .extract ∧ s.n ≤ s.samples.length ∧
      t = if (extractAll s.cfg.bitThreshold (s.samples.take s.n)).1 < minBits
        then s.extracted.raise (shortFrameError s.endc) else s.extracted.goto .check) ∨
    (p = .check ∧ t = if s.frame.b4 = checksum s.frame then s.goto .interpret else s.raise .checksumMismatch) ∨
    (p = .interpret ∧ ((∃ k, sensorKind s.stype = some k ∧
        t = { s with hum := humidity k s.frame, temp := temperature k s.frame }.succeed) ∨
      (sensorKind s.stype = none ∧ t = s.raise .unsupportedType))) := by
  cases p with
  | idle => exact .inl ⟨rfl, by simpa [Phase.instr, exec, execPhIdle] using h.symm⟩
  | wakeHigh => exact .inr (.inl ⟨rfl, by simpa [Phase.instr, exec, execPhWakeHigh] using h.symm⟩)
  | wakeLow => exact .inr (.inr (.inl ⟨rfl, by simpa [Phase.instr, exec, execPhWakeLow] using h.symm⟩))
  | waitResp => exact .inr (.inr (.inr (.inl ⟨rfl, by simpa [Phase.instr, exec, execPhWaitResp] using h.symm⟩)))
  | capture => exact .inr (.inr (.inr (.inr (.inl ⟨rfl, execPhCapture_eq_next.1 h⟩))))
  | extract => exact .inr (.inr (.inr (.inr (.inr (.inl ⟨rfl, execPhExtract_eq_next.1 h⟩)))))
  | check =>
    exact .inr (.inr (.inr (.inr (.inr (.inr (.inl ⟨rfl, by simpa [Phase.instr, exec, execPhCheck] using h.symm⟩))))))
  | interpret =>
    refine .inr (.inr (.inr (.inr (.inr (.inr (.inr ⟨rfl, ?_⟩))))))
    simp only [Phase.instr, exec, execPhInterpret, Host.Outcome.next.injEq] at h
    cases hk : sensorKind s.stype with
    | some k => exact .inl ⟨k, rfl, by rw [hk] at h; exact h.symm⟩
    | none => exact .inr ⟨rfl, by rw [hk] at h; exact h.symm⟩

/-- An operable state has a next state under the phase rule. -/
theorem phaseStep_of_operable {s : State} (h : Operable s) : ∃ t, phaseStep s = .next t := by
  obtain ⟨p, hp⟩ := legal_phase_is_named h.phaseLegal
  rw [phaseStep_of_code hp]
  cases p with
  | capture => exact ⟨_, execPhCapture_eq_next.2 ⟨.inl (h.capture hp), rfl⟩⟩
  | extract => exact ⟨_, execPhExtract_eq_next.2 ⟨h.extract hp, rfl⟩⟩
  | idle | wakeHigh | wakeLow | waitResp | check | interpret => exact ⟨_, rfl⟩

theorem phaseStep_never_refuses (s : State) (r : Refusal) : phaseStep s ≠ .refused r := by
  unfold phaseStep
  split <;> first
    | (intro h; cases h)
    | (simp only [execPhCapture]; split <;> simp)
    | (simp only [execPhExtract]; split <;> simp)

/-! ### An instruction -/

/-- The value a START latches into TYPE. -/
def startValue : Instr → Option Word
  | .readDht11 => some 11#32
  | .readDht22 => some 22#32
  | .readAm2302 => some 2302#32
  | .readOther v => some v
  | _ => none

theorem exec_start {i : Instr} {v : Word} (h : startValue i = some v) (s : State) : exec i s = startTick v s := by
  cases i <;> simp_all [startValue] <;> subst h <;> rfl

/-- Every next state of an instruction: reset, an accepted START, or the phase rule with or without a word read. -/
theorem exec_next_cases {i : Instr} {s t : State} (h : exec i s = .next t) :
    (i = .reset ∧ t = s.toReset) ∨
    (∃ v, startValue i = some v ∧ s.phase = Phase.idle.code ∧ t = s.start v) ∨
    (∃ p : Phase, i = p.instr ∧ exec p.instr s = .next t) ∨
    (∃ (p : Phase) (u : State), s.phase = p.code ∧ exec p.instr s = .next u ∧ (t = u ∨ ∃ w, t = u.withReadData w)) := by
  have hp : ∀ {u}, phaseStep s = .next u → (t = u ∨ ∃ w, t = u.withReadData w) →
      ∃ (p : Phase) (u : State), s.phase = p.code ∧ exec p.instr s = .next u ∧ (t = u ∨ ∃ w, t = u.withReadData w) := by
    intro u hu ht
    obtain ⟨p, hp, hx⟩ := phaseStep_next_cases hu
    exact ⟨p, u, hp, hx, ht⟩
  have hread : ∀ {word}, readTick word s = .next t →
      ∃ (p : Phase) (u : State), s.phase = p.code ∧ exec p.instr s = .next u ∧ (t = u ∨ ∃ w, t = u.withReadData w) := by
    intro word hw
    obtain ⟨u, hu, rfl⟩ := mapNext_eq_next.1 hw
    exact hp hu (.inr ⟨_, rfl⟩)
  have hstart : ∀ v, startTick v s = .next t → (s.phase = Phase.idle.code ∧ t = s.start v) ∨ phaseStep s = .next t := by
    intro v hv
    unfold startTick at hv
    split at hv
    · exact .inl ⟨‹_›, by simpa using hv.symm⟩
    · exact .inr hv
  cases i with
  | reset => exact .inl ⟨rfl, by simpa [exec, execReset] using h.symm⟩
  | readDht11 =>
    rcases hstart _ h with ⟨h1, h2⟩ | h1
    · exact .inr (.inl ⟨_, rfl, h1, h2⟩)
    · exact .inr (.inr (.inr (hp h1 (.inl rfl))))
  | readDht22 =>
    rcases hstart _ h with ⟨h1, h2⟩ | h1
    · exact .inr (.inl ⟨_, rfl, h1, h2⟩)
    · exact .inr (.inr (.inr (hp h1 (.inl rfl))))
  | readAm2302 =>
    rcases hstart _ h with ⟨h1, h2⟩ | h1
    · exact .inr (.inl ⟨_, rfl, h1, h2⟩)
    · exact .inr (.inr (.inr (hp h1 (.inl rfl))))
  | readOther v =>
    rcases hstart _ h with ⟨h1, h2⟩ | h1
    · exact .inr (.inl ⟨_, rfl, h1, h2⟩)
    · exact .inr (.inr (.inr (hp h1 (.inl rfl))))
  | rdCmd | rdStatus | rdHum | rdTemp | rdType => exact .inr (.inr (.inr (hread h)))
  | wrStatus | wrHum | wrTemp | wrType | nop => exact .inr (.inr (.inr (hp h (.inl rfl))))
  | phIdle => exact .inr (.inr (.inl ⟨.idle, rfl, h⟩))
  | phWakeHigh => exact .inr (.inr (.inl ⟨.wakeHigh, rfl, h⟩))
  | phWakeLow => exact .inr (.inr (.inl ⟨.wakeLow, rfl, h⟩))
  | phWaitResp => exact .inr (.inr (.inl ⟨.waitResp, rfl, h⟩))
  | phCapture => exact .inr (.inr (.inl ⟨.capture, rfl, h⟩))
  | phExtract => exact .inr (.inr (.inl ⟨.extract, rfl, h⟩))
  | phCheck => exact .inr (.inr (.inl ⟨.check, rfl, h⟩))
  | phInterpret => exact .inr (.inr (.inl ⟨.interpret, rfl, h⟩))

theorem exec_never_refuses (i : Instr) (s : State) (r : Refusal) : exec i s ≠ .refused r := by
  have hs : ∀ v, startTick v s ≠ .refused r := by
    intro v h
    unfold startTick at h
    split at h
    · cases h
    · exact phaseStep_never_refuses s r h
  have hr : ∀ word, readTick word s ≠ .refused r := by
    intro word h
    unfold readTick mapNext at h
    split at h
    · cases h
    · cases h
    · rename_i e he
      exact phaseStep_never_refuses s e he
  cases i with
  | readDht11 | readDht22 | readAm2302 | readOther => exact hs _
  | rdCmd | rdStatus | rdHum | rdTemp | rdType => exact hr _
  | wrStatus | wrHum | wrTemp | wrType | nop => exact phaseStep_never_refuses s r
  | phCapture => simp only [exec, execPhCapture]; split <;> simp
  | phExtract => simp only [exec, execPhExtract]; split <;> simp
  | reset | phIdle | phWakeHigh | phWakeLow | phWaitResp | phCheck | phInterpret => intro h; cases h

/-- What an instruction decoded from a tick without reset does on an operable state. -/
theorem exec_of_operable {i : Instr} {s : State} {h : HostOp} (hd : decodeHop h = .ok i) (ho : Operable s) :
    ∃ t, exec i s = .next t := by
  obtain ⟨u, hu⟩ := phaseStep_of_operable ho
  have hr : ∀ word, ∃ t, readTick word s = .next t := fun word => ⟨_, by unfold readTick; rw [hu]; rfl⟩
  have hs : ∀ v, ∃ t, startTick v s = .next t := by
    intro v
    unfold startTick
    split
    · exact ⟨_, rfl⟩
    · exact ⟨u, hu⟩
  rcases decodeHop_ok_cases hd with ⟨-, rfl⟩ | ⟨off, -, hr'⟩ | ⟨off, v, -, hw⟩
  · exact ⟨u, hu⟩
  · rcases (decodeRead_ok_iff off i).1 hr' with ⟨-, rfl⟩ | ⟨-, rfl⟩ | ⟨-, rfl⟩ | ⟨-, rfl⟩ | ⟨-, rfl⟩ <;> exact hr _
  · rcases (decodeWrite_ok_iff off v i).1 hw with ⟨-, rfl⟩ | ⟨-, rfl⟩ | ⟨-, rfl⟩ | ⟨-, rfl⟩ | ⟨-, rfl⟩
    · rcases decodeCommand_cases v with ⟨-, h⟩ | ⟨-, h⟩ | ⟨-, h⟩ | ⟨-, -, -, h⟩ <;> rw [h] <;> exact hs _
    all_goals exact ⟨u, hu⟩

/-! ### A step -/

theorem step_of_fetch {s : State} {i : Instr} (h : fetch s = .ok i) : step s = exec i (beginTick s) := by
  unfold step
  rw [h]

/-- A step that answers a next state ran the instruction its tick decodes to. -/
theorem step_next_cases {s t : State} (h : step s = .next t) :
    ∃ i, fetch s = .ok i ∧ exec i (beginTick s) = .next t := by
  unfold step at h
  split at h
  · exact ⟨_, ‹_›, h⟩
  · cases h

theorem run_succ_of_next {s t : State} (h : step s = .next t) (k : Nat) : run (k + 1) s = run k t := by
  simp only [run, h]

theorem run_succ_next_cases {s u : State} {k : Nat} (h : run (k + 1) s = .next u) :
    ∃ t, step s = .next t ∧ run k t = .next u := by
  simp only [run] at h
  split at h
  · exact ⟨_, ‹_›, h⟩
  · cases h
  · cases h

theorem run_add {k : Nat} : ∀ {s t : State}, run k s = .next t → ∀ m, run (k + m) s = run m t := by
  induction k with
  | zero => intro s t h m; simp only [run, Host.Outcome.next.injEq] at h; subst h; rw [Nat.zero_add]
  | succ k ih =>
    intro s t h m
    obtain ⟨u, hu, hr⟩ := run_succ_next_cases h
    rw [show k + 1 + m = (k + m) + 1 by omega, run_succ_of_next hu, ih hr]

/-! ### Quiet ticks -/

/-- The inputs of the next tick of a quiet script: no reset, and a host operation that decodes. -/
theorem inputs_of_quiet {k : Nat} {s : State} (h : QuietFor (k + 1) s) :
    s.inputs.rst = false ∧ ∃ i, decodeHop s.inputs.hop = .ok i := by
  unfold State.inputs
  cases hs : s.script with
  | nil => exact ⟨rfl, _, rfl⟩
  | cons x rest => exact h x (by simp [hs])

theorem quiet_tail {k : Nat} {s t : State} (h : QuietFor (k + 1) s) (ht : t.script = s.script.tail) : QuietFor k t := by
  intro x hx
  rw [ht] at hx
  cases hs : s.script with
  | nil => simp [hs] at hx
  | cons y rest =>
    rw [hs, List.tail_cons] at hx
    exact h x (by rw [hs, List.take_succ_cons]; exact List.mem_cons_of_mem _ hx)

theorem quiet_mono {j k : Nat} {s : State} (hjk : j ≤ k) (h : QuietFor k s) : QuietFor j s :=
  fun x hx => h x (List.take_subset_take_left s.script hjk hx)

theorem fetch_of_quiet {k : Nat} {s : State} (h : QuietFor (k + 1) s) :
    ∃ i, fetch s = .ok i ∧ decodeHop s.inputs.hop = .ok i := by
  obtain ⟨hr, i, hi⟩ := inputs_of_quiet h
  exact ⟨i, by simp [fetch, hr, decode, hi], hi⟩

/-- While an operation runs, whatever the host does in a quiet tick, the tick is the phase rule, with or without a word
read. -/
theorem exec_while_busy {i : Instr} {s u : State} {h : HostOp} (hd : decodeHop h = .ok i)
    (hb : s.phase ≠ Phase.idle.code) (hu : phaseStep s = .next u) :
    ∃ t, exec i s = .next t ∧ (t = u ∨ ∃ w, t = u.withReadData w) := by
  have hr : ∀ word, ∃ t, readTick word s = .next t ∧ (t = u ∨ ∃ w, t = u.withReadData w) :=
    fun word => ⟨_, by unfold readTick; rw [hu]; rfl, .inr ⟨_, rfl⟩⟩
  have hs : ∀ v, ∃ t, startTick v s = .next t ∧ (t = u ∨ ∃ w, t = u.withReadData w) :=
    fun v => ⟨u, by unfold startTick; rw [if_neg hb, hu], .inl rfl⟩
  rcases decodeHop_ok_cases hd with ⟨-, rfl⟩ | ⟨off, -, hr'⟩ | ⟨off, v, -, hw⟩
  · exact ⟨u, hu, .inl rfl⟩
  · rcases (decodeRead_ok_iff off i).1 hr' with ⟨-, rfl⟩ | ⟨-, rfl⟩ | ⟨-, rfl⟩ | ⟨-, rfl⟩ | ⟨-, rfl⟩ <;> exact hr _
  · rcases (decodeWrite_ok_iff off v i).1 hw with ⟨-, rfl⟩ | ⟨-, rfl⟩ | ⟨-, rfl⟩ | ⟨-, rfl⟩ | ⟨-, rfl⟩
    · rcases decodeCommand_cases v with ⟨-, h⟩ | ⟨-, h⟩ | ⟨-, h⟩ | ⟨-, -, -, h⟩ <;> rw [h] <;> exact hs _
    all_goals exact ⟨u, hu, .inl rfl⟩

/-- One quiet tick of a running operation. -/
theorem step_while_busy {k : Nat} {s u : State} {p : Phase} (hq : QuietFor (k + 1) s) (hp : s.phase = p.code)
    (hb : p ≠ .idle) (hu : exec p.instr (beginTick s) = .next u) :
    ∃ t, step s = .next t ∧ (t = u ∨ ∃ w, t = u.withReadData w) := by
  obtain ⟨i, hf, hd⟩ := fetch_of_quiet hq
  rw [step_of_fetch hf]
  have hp' : (beginTick s).phase = p.code := hp
  refine exec_while_busy hd ?_ ((phaseStep_of_code hp').trans hu)
  rw [hp']
  exact fun h => hb ((code_inj _ _).1 h)

/-! ### The ticks ahead -/

/-- The level sampled at the next tick. -/
theorem level_eq_levelAt (s : State) : s.level = s.levelAt 0 := by
  unfold State.level State.levelAt State.inputs
  cases h : s.script with
  | nil => simp
  | cons x r => cases hx : x.lin <;> simp [hx]

theorem inputs_eq_inputsAt (s : State) : s.inputs = s.inputsAt 0 := by
  unfold State.inputs State.inputsAt
  cases s.script <;> simp

theorem levelAt_tail {s t : State} (h1 : t.script = s.script.tail) (h2 : t.tick = s.tick + 1) (k : Nat) :
    t.levelAt k = s.levelAt (k + 1) := by
  unfold State.levelAt
  rw [h1, h2]
  simp [Nat.add_assoc, Nat.add_comm 1 k]

theorem inputsAt_tail {s t : State} (h : t.script = s.script.tail) (k : Nat) : t.inputsAt k = s.inputsAt (k + 1) := by
  unfold State.inputsAt
  rw [h]
  simp

/-! ### The host's run -/

theorem core_run_succ (M : Host.Core) (k : Nat) (s : M.State) : M.run (k + 1) s =
    (match M.step s with
    | .next t => M.run k t
    | .fault r => .fault r
    | .refused r => .refused r) := rfl

/-- The model's run is the host's. -/
theorem run_eq_core_run (k : Nat) : ∀ s : State, Host.Core.run core k s = run k s := by
  induction k with
  | zero => intro s; rfl
  | succ k ih =>
    intro s
    refine (core_run_succ core k s).trans ?_
    simp only [run]
    cases h : step s with
    | next t =>
      have hc : core.step s = .next t := h
      rw [hc]
      exact ih t
    | fault r =>
      have hc : core.step s = .fault r := h
      rw [hc]
      rfl
    | refused r =>
      have hc : core.step s = .refused r := h
      rw [hc]
      rfl

end Sys2Proof.Machine
end

