-- ==== Sys2Proof/Laws/Buffer.lean ====
section
/-! SUPPORT. The sample buffer keeps its `MAX_EDGES` entries (10_state.md R25): the canonical form of this machine's only
store. -/

namespace Sys2Proof.Machine

theorem freeBuffer_length (c : Config) (t : Nat) : (freeBuffer c t).length = c.maxEdges := by simp [freeBuffer]

/-- After a reset too every entry fits the stored form (R25). -/
theorem freeBuffer_durations {c : Config} (h : 1 ≤ c.edgeCap) (t : Nat) : ∀ x ∈ freeBuffer c t, x.duration < c.edgeCap := by
  intro x hx
  obtain ⟨i, -, rfl⟩ := List.mem_map.1 hx
  exact Nat.mod_lt _ h

/-- Recording a pulse counted below the cap keeps every entry below it. -/
theorem record_durations {s : State} {cap : Nat} (h : ∀ x ∈ s.samples, x.duration < cap) (hc : s.cnt < cap) :
    ∀ x ∈ s.record.samples, x.duration < cap := by
  intro x hx
  rcases List.mem_or_eq_of_mem_set (by simpa using hx) with hx | rfl
  · exact h x hx
  · exact hc

theorem reset_buffer_length : State.reset.samples.length = State.reset.cfg.maxEdges := freeBuffer_length _ _

theorem record_buffer_length (s : State) : s.record.samples.length = s.samples.length := by simp

/-- The samples below `n` after recording one are the old ones and the new one. -/
theorem record_take (s : State) (h : s.n < s.samples.length) :
    s.record.samples.take s.record.n = s.samples.take s.n ++ [⟨s.last, s.cnt⟩] := by
  have h' : s.n < (s.samples.set s.n ⟨s.last, s.cnt⟩).length := by simpa using h
  simp only [State.record_samples, State.record_n]
  rw [List.take_add_one, List.getElem?_eq_getElem h', List.take_set_of_le (Nat.le_refl s.n)]
  simp

/-- A phase instruction keeps the number of entries. -/
theorem phaseInstr_keeps_buffer_length {p : Phase} {s t : State} (h : exec p.instr s = .next t) :
    t.samples.length = s.samples.length := by
  rcases phaseInstr_next_cases h with ⟨-, rfl⟩ | ⟨-, rfl⟩ | ⟨-, rfl⟩ | ⟨-, rfl⟩ | ⟨-, -, rfl⟩ | ⟨-, -, rfl⟩ | ⟨-, rfl⟩ |
    ⟨-, ⟨k, -, rfl⟩ | ⟨-, rfl⟩⟩
  · rfl
  · split <;> rfl
  · split <;> rfl
  · repeat' split
    all_goals rfl
  · unfold State.pulseGoesOn State.pulseEnds
    repeat' split
    all_goals simp
  · split <;> rfl
  · split <;> rfl
  · rfl
  · rfl

/-- Every instruction keeps the number of entries; RESET gives the buffer its `MAX_EDGES` entries. -/
theorem exec_keeps_buffer_length {i : Instr} {s t : State} (h : exec i s = .next t)
    (hs : s.samples.length = s.cfg.maxEdges) : t.samples.length = s.cfg.maxEdges := by
  rcases exec_next_cases h with ⟨-, rfl⟩ | ⟨v, -, -, rfl⟩ | ⟨p, -, hp⟩ | ⟨p, u, -, hp, rfl | ⟨w, rfl⟩⟩
  · simpa using freeBuffer_length s.cfg s.tick
  · simpa using hs
  · rw [phaseInstr_keeps_buffer_length hp, hs]
  · rw [phaseInstr_keeps_buffer_length hp, hs]
  · simpa using (phaseInstr_keeps_buffer_length hp).trans hs

end Sys2Proof.Machine
end

