-- ==== Sys2Proof/Laws/Extract.lean ====
section
/-! SUPPORT. What the packing loop of 43_bit_extraction.md R140 computes: which samples give a bit, how many, and where each
bit goes. -/

namespace Sys2Proof.Machine

/-- The bits the loop packs from index `i` on when it may still pack `room` of them. -/
def bitsFrom (threshold i : Nat) (xs : List Sample) (room : Nat) : List Bool :=
  (((xs.drop (preamble - i)).filter fun x => x.level = .high).take room).map (sampleBit threshold)

/-- Bits packed one after the other, the first at position `k`. -/
def packAll (f : Frame) (k : Nat) (bits : List Bool) : Frame :=
  match bits with
  | [] => f
  | b :: rest => packAll (packBit f k b) (k + 1) rest

/-- The loop is: choose the bits, then pack them. -/
theorem extractFrom_eq (threshold : Nat) (xs : List Sample) : ∀ (i k : Nat) (f : Frame),
    extractFrom threshold i xs k f =
      (k + (bitsFrom threshold i xs (frameBits - k)).length, packAll f k (bitsFrom threshold i xs (frameBits - k))) := by
  induction xs with
  | nil => intro i k f; simp [extractFrom, bitsFrom, packAll]
  | cons x rest ih =>
    intro i k f
    unfold extractFrom
    by_cases hi : preamble ≤ i
    · have h1 : preamble - i = 0 := by omega
      have h2 : preamble - (i + 1) = 0 := by omega
      by_cases hx : x.level = .high
      · by_cases hk : k < frameBits
        · obtain ⟨m, hm⟩ : ∃ m, frameBits - k = m + 1 := ⟨frameBits - k - 1, by omega⟩
          have hm' : frameBits - (k + 1) = m := by omega
          simp [hi, hx, hk, ih, bitsFrom, h1, h2, hm, hm', packAll]
          omega
        · have hm : frameBits - k = 0 := by omega
          simp [hk, ih, bitsFrom, hm]
      · simp [hx, ih, bitsFrom, h1, h2]
    · obtain ⟨m, hm⟩ : ∃ m, preamble - i = m + 1 := ⟨preamble - i - 1, by omega⟩
      have hm' : preamble - (i + 1) = m := by omega
      simp [hi, ih, bitsFrom, hm, hm']

/-- The bits a frame is made of. -/
def frameBitsOf (threshold : Nat) (xs : List Sample) : List Bool := bitsFrom threshold 0 xs frameBits

theorem extractAll_eq (threshold : Nat) (xs : List Sample) : extractAll threshold xs =
    ((frameBitsOf threshold xs).length, packAll Frame.zero 0 (frameBitsOf threshold xs)) := by
  unfold extractAll frameBitsOf
  rw [extractFrom_eq]
  simp

theorem frameBitsOf_length_le (threshold : Nat) (xs : List Sample) : (frameBitsOf threshold xs).length ≤ 40 := by
  simp [frameBitsOf, bitsFrom, frameBits]

/-! ### Where a bit goes -/

theorem frameByte_orByte (f : Frame) (m : Byte) {i j : Nat} (hi : i < 5) (hj : j < 5) :
    frameByte (orByte f i m) j = if i = j then frameByte f j ||| m else frameByte f j := by
  interval_cases i <;> interval_cases j <;> rfl

theorem one_bit_byte : ∀ r < 8, ∀ m < 8, ∀ b : Bool,
    (BitVec.ofNat 8 b.toNat <<< (7 - r)).getLsbD (7 - m) = (decide (r = m) && b) := by decide

/-- Packing bit `k` changes the bit at position `8 j + m` of the frame only for `k = 8 j + m`. -/
theorem packBit_bit (f : Frame) (b : Bool) {k j m : Nat} (hk : k < 40) (hj : j < 5) (hm : m < 8) :
    (frameByte (packBit f k b) j).getLsbD (7 - m) =
      ((frameByte f j).getLsbD (7 - m) || (decide (k = 8 * j + m) && b)) := by
  unfold packBit
  rw [frameByte_orByte f _ (by omega) hj]
  by_cases hq : k / 8 = j
  · rw [if_pos hq, BitVec.getLsbD_or, one_bit_byte _ (by omega) _ hm]
    have : (k % 8 = m) = (k = 8 * j + m) := by apply propext; omega
    simp [this]
  · rw [if_neg hq]
    have : k ≠ 8 * j + m := by omega
    simp [this]

theorem packAll_bit (bits : List Bool) : ∀ (f : Frame) (k : Nat), k + bits.length ≤ 40 → ∀ {j m : Nat}, j < 5 → m < 8 →
    (frameByte (packAll f k bits) j).getLsbD (7 - m) =
      ((frameByte f j).getLsbD (7 - m) || (decide (k ≤ 8 * j + m) && bits.getD (8 * j + m - k) false)) := by
  induction bits with
  | nil => intro f k _ j m _ _; simp [packAll]
  | cons b rest ih =>
    intro f k hk j m hj hm
    simp only [List.length_cons] at hk
    rw [packAll, ih _ _ (by omega) hj hm, packBit_bit f b (by omega) hj hm]
    rcases lt_trichotomy k (8 * j + m) with h | h | h
    · obtain ⟨d, hd⟩ : ∃ d, 8 * j + m - k = d + 1 := ⟨8 * j + m - k - 1, by omega⟩
      have h1 : 8 * j + m - (k + 1) = d := by omega
      have h2 : k ≠ 8 * j + m := by omega
      simp [hd, h1, h2, h.le, Nat.succ_le_of_lt h]
    · subst h
      simp
    · have h1 : ¬ k ≤ 8 * j + m := by omega
      have h2 : ¬ k + 1 ≤ 8 * j + m := by omega
      have h3 : k ≠ 8 * j + m := by omega
      simp [h1, h2, h3]

/-- Bit `8 j + m` of the frame, most significant bit of `byte[0]` first (R48, R141). -/
theorem frame_bit (threshold : Nat) (xs : List Sample) {j m : Nat} (hj : j < 5) (hm : m < 8) :
    (frameByte (extractAll threshold xs).2 j).getLsbD (7 - m) =
      (frameBitsOf threshold xs).getD (8 * j + m) false := by
  rw [extractAll_eq]
  have h := frameBitsOf_length_le threshold xs
  rw [packAll_bit _ Frame.zero 0 (by omega) hj hm]
  have hz : (frameByte Frame.zero j).getLsbD (7 - m) = false := by
    interval_cases j <;> simp [frameByte, Frame.zero]
  simp [hz]

end Sys2Proof.Machine
end

