-- ==== Sys2Proof/Laws/PerInstr.lean ====
section
/-! SUPPORT. Per-instruction families (LAWS.json). Selects: the row of opcode_table.json that an encoded well-formed
instruction's selecting field selects first is its own (30_encoding.md R81). -/

namespace Sys2Proof.Laws.Selects

def Statement (i : Instr) : Prop :=
  i.wellFormed = true → lookupRow (encode i).selector.1 (encode i).selector.2 = some i.mnemonic

theorem readDht11 : Statement .readDht11 := fun _ => rfl
theorem readDht22 : Statement .readDht22 := fun _ => rfl
theorem readAm2302 : Statement .readAm2302 := fun _ => rfl

theorem readOther (v : Word) : Statement (.readOther v) := by
  intro h
  simp only [Instr.wellFormed, Bool.and_eq_true, bne_iff_ne, ne_eq] at h
  obtain ⟨⟨h1, h2⟩, h3⟩ := h
  have hlt := v.isLt
  have hm : v.toNat &&& 0xFFFFFFFF = v.toNat := by
    rw [show (0xFFFFFFFF : Nat) = 2 ^ 32 - 1 from rfl, Nat.and_two_pow_sub_one_eq_mod]
    omega
  have n1 : v.toNat ≠ 0xB := fun h => h1 (BitVec.eq_of_toNat_eq h)
  have n2 : v.toNat ≠ 0x16 := fun h => h2 (BitVec.eq_of_toNat_eq h)
  have n3 : v.toNat ≠ 0x8FE := fun h => h3 (BitVec.eq_of_toNat_eq h)
  simp [encode, Code.selector, lookupRow, opcodeTable, hm, n1, n2, n3, Instr.mnemonic]

theorem rdCmd : Statement .rdCmd := fun _ => rfl
theorem rdStatus : Statement .rdStatus := fun _ => rfl
theorem rdHum : Statement .rdHum := fun _ => rfl
theorem rdTemp : Statement .rdTemp := fun _ => rfl
theorem rdType : Statement .rdType := fun _ => rfl
theorem wrStatus (v : Word) : Statement (.wrStatus v) := fun _ => by simp [encode, Code.selector]; rfl
theorem wrHum (v : Word) : Statement (.wrHum v) := fun _ => by simp [encode, Code.selector]; rfl
theorem wrTemp (v : Word) : Statement (.wrTemp v) := fun _ => by simp [encode, Code.selector]; rfl
theorem wrType (v : Word) : Statement (.wrType v) := fun _ => by simp [encode, Code.selector]; rfl
theorem reset : Statement .reset := fun _ => rfl
theorem nop : Statement .nop := fun _ => rfl
theorem phIdle : Statement .phIdle := fun _ => rfl
theorem phWakeHigh : Statement .phWakeHigh := fun _ => rfl
theorem phWakeLow : Statement .phWakeLow := fun _ => rfl
theorem phWaitResp : Statement .phWaitResp := fun _ => rfl
theorem phCapture : Statement .phCapture := fun _ => rfl
theorem phExtract : Statement .phExtract := fun _ => rfl
theorem phCheck : Statement .phCheck := fun _ => rfl
theorem phInterpret : Statement .phInterpret := fun _ => rfl

end Sys2Proof.Laws.Selects
end

