-- ==== Sys2Proof/Laws/Reading.lean ====
section
/-! SUPPORT. The arithmetic of CHECK and INTERPRET on naturals (44_checksum.md R156, 45_interpretation.md R169), and the width
of a stored duration (30_encoding.md R72). -/

namespace Sys2Proof.Machine

/-- A duration below the cap fits the bits a stored duration has. -/
theorem edgeCap_le_two_pow (cap : Nat) : cap ≤ 2 ^ durationBits cap := by
  unfold durationBits
  split
  · simpa using ‹cap ≤ 1›
  · have := Nat.lt_log2_self (n := cap - 1)
    omega

theorem checksum_toNat (f : Frame) :
    (checksum f).toNat = (f.b0.toNat + f.b1.toNat + f.b2.toNat + f.b3.toNat) % 256 := by
  simp [checksum]

theorem append_toNat {v w : Nat} (a : BitVec v) (b : BitVec w) : (a ++ b).toNat = a.toNat * 2 ^ w + b.toNat := by
  rw [BitVec.toNat_append, ← Nat.shiftLeft_add_eq_or_of_lt b.isLt, Nat.shiftLeft_eq]

theorem humidity_dht11_toNat (f : Frame) : (humidity .dht11 f).toNat = f.b1.toNat * 10 := by
  have := f.b1.isLt
  simp [humidity]
  omega

theorem humidity_dht22_toNat (f : Frame) : (humidity .dht22 f).toNat = f.b0.toNat * 256 + f.b1.toNat := by
  have := f.b0.isLt
  have := f.b1.isLt
  simp [humidity]
  omega

theorem temperature_dht11_toNat (f : Frame) : (temperature .dht11 f).toNat = f.b2.toNat * 10 := by
  have h := f.b2.isLt
  have e := append_toNat 0#1 (f.b2.setWidth 15 * 10#15)
  have m : (f.b2.setWidth 15 * 10#15).toNat = f.b2.toNat * 10 := by simp; omega
  rw [m] at e
  exact e.trans (by simp)

theorem low_seven_bits (b : Byte) : (b &&& 0x7F#8).toNat = b.toNat % 128 := by
  rw [BitVec.toNat_and, show (0x7F#8).toNat = 2 ^ 7 - 1 from rfl, Nat.and_two_pow_sub_one_eq_mod]

theorem temperature_dht22_toNat (f : Frame) : (temperature .dht22 f).toNat = f.b2.toNat * 256 + f.b3.toNat := by
  have h2 := f.b2.isLt
  have h3 := f.b3.isLt
  have e := append_toNat (f.b2.extractLsb' 7 1) ((f.b2 &&& 0x7F#8).setWidth 15 * 256#15 + f.b3.setWidth 15)
  have s : (f.b2.extractLsb' 7 1).toNat = f.b2.toNat / 128 := by
    rw [BitVec.extractLsb'_toNat, Nat.shiftRight_eq_div_pow]
    omega
  have m : ((f.b2 &&& 0x7F#8).setWidth 15 * 256#15 + f.b3.setWidth 15).toNat = f.b2.toNat % 128 * 256 + f.b3.toNat := by
    rw [BitVec.toNat_add, BitVec.toNat_mul, BitVec.toNat_setWidth, low_seven_bits]
    simp
    omega
  rw [m, s] at e
  refine e.trans ?_
  omega

end Sys2Proof.Machine
end

