-- ==== Sys2Proof/Tests/Slice0.lean ====
section
/-! SUPPORT. The model's own tests: ill-formed terms, decoding of words written out from the spec, one-step vectors of
95_test_vectors.md, and for each statement with hypotheses a state and operands that meet them. -/

namespace Sys2Proof.Tests

open Sys2Proof.Machine

/-! ## Well-formedness: what the check refuses -/

theorem test_readOther_11_is_ill_formed : (Instr.readOther 0x0000000B#32).wellFormed = false := by decide
theorem test_readOther_22_is_ill_formed : (Instr.readOther 0x00000016#32).wellFormed = false := by decide
theorem test_readOther_2302_is_ill_formed : (Instr.readOther 0x000008FE#32).wellFormed = false := by decide
theorem test_readOther_12_is_well_formed : (Instr.readOther 0x0000000C#32).wellFormed = true := by decide

/-! ## Decoding: words written out from 30_encoding.md R61, R62 and 10_state.md R13 -/

/-- R61: 11 = `1011`, 22 = `1_0110`, 2302 = `1000_1111_1110`. -/
theorem test_decode_cmdw :
    decode (.tick false (.write 0x00 4 0b00000000000000000000000000001011#32)) = .ok .readDht11 ∧
    decode (.tick false (.write 0x00 4 0b00000000000000000000000000010110#32)) = .ok .readDht22 ∧
    decode (.tick false (.write 0x00 4 0b00000000000000000000100011111110#32)) = .ok .readAm2302 := by decide

/-- V17: every other value, the one with a bit above bit 15 among them. -/
theorem test_decode_cmdw_other :
    decode (.tick false (.write 0x00 4 0x00000000#32)) = .ok (.readOther 0#32) ∧
    decode (.tick false (.write 0x00 4 0x0001000B#32)) = .ok (.readOther 0x0001000B#32) ∧
    decode (.tick false (.write 0x00 4 0xFFFFFFFF#32)) = .ok (.readOther 0xFFFFFFFF#32) := by decide

theorem test_decode_regr :
    decode (.tick false (.read 0b00000#32 4)) = .ok .rdCmd ∧
    decode (.tick false (.read 0b00100#32 4)) = .ok .rdStatus ∧
    decode (.tick false (.read 0b01000#32 4)) = .ok .rdHum ∧
    decode (.tick false (.read 0b01100#32 4)) = .ok .rdTemp ∧
    decode (.tick false (.read 0b10000#32 4)) = .ok .rdType := by decide

theorem test_decode_regw :
    decode (.tick false (.write 0b00100#32 4 7)) = .ok (.wrStatus 7) ∧
    decode (.tick false (.write 0b01000#32 4 7)) = .ok (.wrHum 7) ∧
    decode (.tick false (.write 0b01100#32 4 7)) = .ok (.wrTemp 7) ∧
    decode (.tick false (.write 0b10000#32 4 7)) = .ok (.wrType 7) := by decide

/-- V20: reset with a write in the same tick is a reset, and so is reset with a reserved access. -/
theorem test_decode_pin :
    decode (.tick true .none) = .ok .reset ∧
    decode (.tick true (.write 0x00 4 0x0000000B#32)) = .ok .reset ∧
    decode (.tick true (.read 0x03 2)) = .ok .reset ∧
    decode (.tick false .none) = .ok .nop := by decide

theorem test_decode_phase :
    decode (.phase 0b0000#4) = .ok .phIdle ∧ decode (.phase 0b0001#4) = .ok .phWakeHigh ∧
    decode (.phase 0b0010#4) = .ok .phWakeLow ∧ decode (.phase 0b0011#4) = .ok .phWaitResp ∧
    decode (.phase 0b0100#4) = .ok .phCapture ∧ decode (.phase 0b0101#4) = .ok .phExtract ∧
    decode (.phase 0b0110#4) = .ok .phCheck ∧ decode (.phase 0b0111#4) = .ok .phInterpret := by decide

/-- R74: the unused codes, at both ends. -/
theorem test_decode_unused_phase :
    decode (.phase 0b1000#4) = .error (.unusedPhase 8) ∧ decode (.phase 0b1111#4) = .error (.unusedPhase 15) := by
  decide

/-- R41, R42: what no row describes. -/
theorem test_decode_reserved_access :
    decode (.tick false (.read 0x04 2)) = .error (.reservedSize 2) ∧
    decode (.tick false (.write 0x00 1 11)) = .error (.reservedSize 1) ∧
    decode (.tick false (.read 0x06 4)) = .error (.misalignedOffset 6) ∧
    decode (.tick false (.read 0x14 4)) = .error (.reservedOffset 0x14) ∧
    decode (.tick false (.write 0xFFFFFFFC 4 0)) = .error (.reservedOffset 0xFFFFFFFC) := by decide

/-- R81: the rows of one class do not overlap, but for the lowest-priority row `READ.OTHER`. -/
theorem test_rows_do_not_overlap :
    (opcodeTable.filter fun r => r.mask ≠ 0).Pairwise fun a b => a.cls = b.cls → a.pat &&& a.mask &&& b.mask ≠ b.pat &&& a.mask &&& b.mask := by
  decide

theorem test_table_words :
    decodeTableWord 32 0x0000000B = some .readDht11 ∧ decodeTableWord 32 0x00000016 = some .readDht22 ∧
    decodeTableWord 32 0x000008FE = some .readAm2302 ∧ decodeTableWord 32 0x0000000D = some (.readOther 0xD) ∧
    decodeTableWord 32 0x00000010 = some .rdType ∧ decodeTableWord 1 1 = some .reset ∧ decodeTableWord 1 0 = some .nop ∧
    decodeTableWord 0 0 = some (.readOther 0) ∧
    decodeTableWord 8 0x04 = some .phCapture ∧ decodeTableWord 4 0x7 = some .phInterpret ∧
    decodeTableWord 8 0x08 = none ∧ decodeTableWord 4 0x10 = none := by decide

/-! ## One step: vectors of 95_test_vectors.md -/

/-- CFG-B. -/
def cfgB : Config where
  wakeHighTicks := 2
  wakeLowTicks := 1
  respCap := 4
  edgeCap := 4
  maxEdges := 8
  bitThreshold := 1
  tPollNs := 500000000
  base := 0x40000000

/-- The reset state in CFG-B with a known buffer. -/
def small : State :=
  { State.resetWith cfgB with samples := List.replicate 8 ⟨.low, 0⟩, lin := .high }

/-- The samples of program P5 at tick 21. -/
def samplesP5 : List Sample :=
  [⟨.high, 0⟩, ⟨.low, 0⟩, ⟨.high, 1⟩, ⟨.low, 1⟩, ⟨.high, 2⟩, ⟨.low, 1⟩, ⟨.high, 1⟩, ⟨.low, 1⟩]

/-- The end state of program P1, as far as a host sees it. -/
def endP1 : State :=
  { small with
    stype := 22#32, hum := 0x021A#16, temp := 0x0104#16, done := true, valid := true, bitcnt := 40#6
    frame := ⟨0x02#8, 0x1A#8, 0x01#8, 0x04#8, 0x21#8⟩ }

/-- `s` with a phase, and a frame and a kind to work on. -/
def inPhase (p : Phase) : State := { small with phase := p.code }

/-- A state of CHECK or INTERPRET. -/
def withFrame (p : Phase) (stype : Word) (f : Frame) : State := { inPhase p with stype := stype, frame := f, bitcnt := 40#6 }

/-- `s` with the inputs of one tick. -/
def onTick (s : State) (hop : HostOp) (l : Level) : State := { s with script := [⟨false, hop, some l⟩] }

/-- What a field is after a next state. -/
def fieldOf {α : Type} (f : State → α) (r : Result) : Option α :=
  match r with
  | .next t => some (f t)
  | .fault _ => none
  | .refused _ => none

/-- V1. -/
theorem test_start_dht22 :
    fieldOf (fun t => (t.phase, t.stype, t.hold, statusWord t)) (exec .readDht22 small)
      = some (1#4, 0x16#32, 0, 0x00010001#32) := by decide

theorem test_start_dht11 : fieldOf State.stype (exec .readDht11 endP1) = some 0x0B#32 := by decide

/-- V1, R17: an accepted START keeps the old reading and clears the old frame. -/
theorem test_start_am2302 :
    fieldOf (fun t => (t.stype, t.hum, t.valid, t.bitcnt, t.frame)) (exec .readAm2302 endP1)
      = some (0x8FE#32, 0x021A#16, false, 0#6, Frame.zero) := by decide

/-- V17: a START with an unsupported kind is accepted. -/
theorem test_start_other : fieldOf (fun t => (t.phase, t.stype)) (exec (.readOther 0x0001000B#32) small)
    = some (1#4, 0x0001000B#32) := by decide

/-- V2: P5 tick 3. -/
theorem test_start_while_busy_is_lost :
    fieldOf (fun t => (t.phase, t.stype)) (exec .readDht11 { inPhase .wakeLow with stype := 22#32 })
      = some (3#4, 22#32) := by decide

/-- V3. -/
theorem test_reads :
    fieldOf State.hrdata (exec .rdCmd endP1) = some (some 0x00000000#32) ∧
    fieldOf State.hrdata (exec .rdStatus endP1) = some (some 0x00002806#32) ∧
    fieldOf State.hrdata (exec .rdHum endP1) = some (some 0x0000021A#32) ∧
    fieldOf State.hrdata (exec .rdTemp endP1) = some (some 0x00000104#32) ∧
    fieldOf State.hrdata (exec .rdType endP1) = some (some 0x00000016#32) := by decide

/-- P5 tick 5: a read sees the state before the tick, while the phase moves on. -/
theorem test_read_sees_the_pre_state :
    fieldOf (fun t => (t.hrdata, t.phase)) (step (onTick { inPhase .waitResp with wcnt := 1 } (.read 0x04 4) .low))
      = some (some 0x00030001#32, 4#4) := by decide

/-- V3. -/
theorem test_ignored_writes :
    fieldOf statusWord (exec (.wrStatus 0) endP1) = some 0x00002806#32 ∧
    fieldOf State.hum (exec (.wrHum 0xFFFFFFFF#32) endP1) = some 0x021A#16 ∧
    fieldOf State.temp (exec (.wrTemp 0xFFFFFFFF#32) endP1) = some 0x0104#16 ∧
    fieldOf State.stype (exec (.wrType 11#32) endP1) = some 0x16#32 := by decide

/-- V3a: STATUS words. -/
theorem test_status_words :
    statusWord { inPhase .extract with endc := true } = 0x00050081#32 ∧
    statusWord { inPhase .interpret with bitcnt := 40#6 } = 0x00072801#32 ∧
    statusWord { small with done := true, err := 1#3 } = 0x00000012#32 ∧
    statusWord { small with done := true, err := 3#3, endc := true, bitcnt := 28#6 } = 0x00001CB2#32 ∧
    statusWord { small with done := true, err := 5#3, bitcnt := 40#6 } = 0x00002852#32 := by decide

/-- V20. -/
theorem test_reset_beats_a_start :
    fieldOf (fun t => (t.phase, t.stype, t.hum, t.last, t.n, statusWord t))
      (step { inPhase .capture with
        hum := 0x01C2#16, n := 1, last := .low, cnt := 3, script := [⟨true, .write 0x00 4 11, some .low⟩] })
      = some (0#4, 0#32, 0#16, .high, 0, 0#32) := by decide

/-- P5 tick 22: idle under a NOP. -/
theorem test_nop_in_idle : fieldOf statusWord (exec .nop endP1) = some 0x00002806#32 := by decide

theorem test_phIdle : fieldOf statusWord (exec .phIdle endP1) = some 0x00002806#32 := by decide

/-- P5 ticks 1 and 2. -/
theorem test_wake_high :
    fieldOf (fun t => (t.phase, t.hold)) (exec .phWakeHigh (inPhase .wakeHigh)) = some (1#4, 1) ∧
    fieldOf (fun t => (t.phase, t.hold)) (exec .phWakeHigh { inPhase .wakeHigh with hold := 1 }) = some (2#4, 0) := by
  decide

/-- P5 tick 3. -/
theorem test_wake_low : fieldOf (fun t => (t.phase, t.hold, t.wcnt)) (exec .phWakeLow { inPhase .wakeLow with wcnt := 3 })
    = some (3#4, 0, 0) := by decide

/-- V5: the fourth poll may still succeed, or fail. -/
theorem test_wait_resp :
    fieldOf State.phase (exec .phWaitResp { inPhase .waitResp with wcnt := 3, lin := .low }) = some 4#4 ∧
    fieldOf statusWord (exec .phWaitResp { inPhase .waitResp with wcnt := 3 }) = some 0x00000012#32 := by decide

/-- V6: ticks 8 and 9. -/
theorem test_capture :
    fieldOf (fun t => (t.cnt, t.n)) (exec .phCapture { inPhase .capture with n := 2 }) = some (1, 2) ∧
    fieldOf (fun t => (t.cnt, t.n, t.last, t.samples[2]?))
      (exec .phCapture { inPhase .capture with n := 2, cnt := 1, lin := .low })
      = some (0, 3, .low, some ⟨.high, 1⟩) := by decide

/-- P5 tick 20 and tick 20 of its variant: the two ends of a capture. -/
theorem test_capture_ends :
    fieldOf (fun t => (t.n, statusWord t)) (exec .phCapture { inPhase .capture with last := .low, cnt := 1, n := 7 })
      = some (8, 0x00050081#32) ∧
    fieldOf (fun t => (t.n, statusWord t)) (exec .phCapture { inPhase .capture with cnt := 3, n := 6, endc := true })
      = some (6, 0x00050001#32) := by decide

/-- P5 tick 21. -/
theorem test_extract_short :
    fieldOf (fun t => (t.frame.b0, statusWord t)) (exec .phExtract { inPhase .extract with n := 8, endc := true, samples := samplesP5 })
      = some (0x80#8, 0x000002B2#32) := by decide

/-- R72: with the default `EDGE_CAP` a duration takes 10 bits and a sample 11; the bound at and past a power of two. -/
theorem test_duration_bits :
    durationBits 1000 = 10 ∧ 1 + durationBits 1000 = 11 ∧ durationBits 1024 = 10 ∧ durationBits 1025 = 11 ∧
    durationBits 2 = 1 ∧ durationBits 1 = 0 := by decide

/-- R72, R8: HIGH is the top bit, the duration the rest; the largest duration fits. -/
theorem test_stored_sample :
    (storedSample 1000 ⟨.high, 999⟩).toNat = 0b1_1111100111 ∧ (storedSample 1000 ⟨.low, 249⟩).toNat = 0b0_0011111001 ∧
    loadedSample 1000 (BitVec.ofNat _ 0b1_1111100111) = ⟨.high, 999⟩ := by decide

/-- P6: bit samples of the last byte `0x44`, and what R141 makes of them. -/
theorem test_extract_packs_msb_first :
    extractAll 2 ([⟨.high, 0⟩, ⟨.low, 1⟩, ⟨.high, 2⟩, ⟨.low, 1⟩] ++
      [1, 3, 1, 1, 1, 3, 1, 1].flatMap fun d => [⟨.high, d⟩, ⟨.low, 1⟩]) = (8, ⟨0x44, 0, 0, 0, 0⟩) := by decide

/-- V15. -/
theorem test_check :
    fieldOf State.phase (exec .phCheck (withFrame .check 22 ⟨0xFF, 0xFF, 0xFF, 0xFF, 0xFC⟩)) = some 7#4 ∧
    fieldOf statusWord (exec .phCheck (withFrame .check 22 ⟨0xFF, 0x01, 0x00, 0x00, 0x01⟩)) = some 0x00002842#32 := by
  decide

/-- V16. -/
theorem test_interpret_dht22 :
    fieldOf (fun t => (t.hum, t.temp, statusWord t)) (exec .phInterpret (withFrame .interpret 22 ⟨0x02, 0x1A, 0x81, 0x04, 0xA1⟩))
      = some (0x021A#16, 0x8104#16, 0x00002806#32) ∧
    fieldOf (fun t => (t.hum, t.temp)) (exec .phInterpret (withFrame .interpret 2302 ⟨0x01, 0x90, 0x80, 0x00, 0x11⟩))
      = some (0x0190#16, 0x8000#16) := by decide

/-- V16. -/
theorem test_interpret_dht11 :
    fieldOf (fun t => (t.hum, t.temp)) (exec .phInterpret (withFrame .interpret 11 ⟨0xAA, 0xFF, 0xFF, 0x55, 0xFD⟩))
      = some (0x09F6#16, 0x09F6#16) ∧
    fieldOf (fun t => (t.hum, t.temp)) (exec .phInterpret (withFrame .interpret 11 ⟨0x37, 0x00, 0x80, 0x09, 0xC0⟩))
      = some (0x0000#16, 0x0500#16) := by decide

/-- V17. -/
theorem test_interpret_unsupported :
    fieldOf (fun t => (t.stype, t.hum, statusWord t))
      (exec .phInterpret { withFrame .interpret 0x0001000B ⟨0x02, 0x1A, 0x01, 0x04, 0x21⟩ with hum := 0x021A#16 })
      = some (0x0001000B#32, 0x021A#16, 0x00002852#32) := by decide

/-! ## The stops and the two host-facing definitions -/

/-- U1, U2: a reserved access refuses the tick. -/
theorem test_reserved_access_is_refused :
    step (onTick small (.read 0x14 4) .high) = .refused (.reservedAccess (.reservedOffset 0x14)) := rfl

/-- U3. -/
theorem test_unused_phase_is_stuck :
    step (onTick { small with phase := 15#4 } .none .high) = .fault (.stuckPhase 15#4) := rfl

/-- A table word placed for the next step runs there. -/
theorem test_fetch_word_runs :
    fieldOf State.stype (step (small.withFetchWord 32 0x0000000B)) = some 11#32 ∧
    fieldOf State.hrdata (step (small.withFetchWord 32 0x00000010)) = some (some 0#32) ∧
    fieldOf State.phase (step (small.withFetchWord 8 0x06)) = some 7#4 ∧
    fieldOf State.phase (step ((inPhase .capture).withFetchWord 1 1)) = some 0#4 := by decide

/-- R78, R80: a script and its waveform. -/
theorem test_script :
    scriptOf [.start 22#32, .nop 2, .rd 0x04#32] 2 (waveform [(.high, 1), (.low, 2)]) =
      [⟨false, .write 0x00 4 22, none⟩, ⟨false, .none, none⟩, ⟨false, .none, some .high⟩,
        ⟨false, .read 0x04 4, some .low⟩] := by decide

/-- R28, R44: the block's first and last word, and the first address past it. -/
theorem test_offsets :
    offsetOf cfgB 0x40000000 = some 0x00 ∧ offsetOf cfgB 0x40000010 = some 0x10 ∧ offsetOf cfgB 0x40000014 = none := by
  decide

/-- P1, V19: what the host makes of the words it reads. -/
theorem test_host_result :
    hostResult 22 0x00002806 0x0000021A 0x00000104 = .ok ⟨22, false, 260, 538⟩ ∧
    hostResult 22 0x00002806 0x00000190 0x00008065 = .ok ⟨22, true, 101, 400⟩ ∧
    hostResult 22 0x00002842 0x0000021A 0x00000104 = .error 4 := by decide

/-! ## States that meet the hypotheses of the statements -/

/-- `DecodeAndEncodeAgree`, `DecodingFollowsTheTable`: both kinds of answer, and a field no row selects. -/
theorem test_meets_decoding :
    (Instr.readOther 0xFFFFFFFF#32).wellFormed = true ∧
    decode (.tick false (.write 0x10 4 0)) = .ok (.wrType 0) ∧
    decode (.phase 8#4) = .error (.unusedPhase 8#4) ∧ lookupRow .phase 8 = none ∧
    decode (.tick false (.write 0x00 2 11)) = .error (.reservedSize 2) ∧ decode (.tick false (.read 0x02 4)) = .error (.misalignedOffset 2) ∧
    decode (.tick false (.read 0x14 4)) = .error (.reservedOffset 0x14) ∧ lookupRow .regr 0x14 = none := by decide

/-- `StepRunsTheDecodedInstruction`: a read, and a tick without one in WAKE_LOW. -/
theorem test_meets_step :
    decode (.tick (onTick small (.read 0x10 4) .low).inputs.rst (onTick small (.read 0x10 4) .low).inputs.hop) = .ok .rdType ∧
    (onTick (inPhase .wakeLow) .none .low).inputs.rst = false ∧ (onTick (inPhase .wakeLow) .none .low).inputs.hop = .none ∧
    decode (.phase (onTick (inPhase .wakeLow) .none .low).phase) = .ok .phWakeLow := by decide

/-- `ReservedAccessesAreRefused`: the last offset that is not reserved, the first that is, and a byte access. -/
theorem test_meets_reserved :
    (onTick small (.read 0x10 4) .low).inputs = ⟨false, .read 0x10 4, some .low⟩ ∧
    (onTick small (.read 0x14 4) .low).inputs = ⟨false, .read 0x14 4, some .low⟩ ∧
    (onTick small (.write 0x10 1 0) .low).inputs = ⟨false, .write 0x10 1 0, some .low⟩ := by decide

/-- `UnusedPhaseCodesAreStuck`: the first unused code with a START, the last with a reset. -/
theorem test_meets_stuck :
    8 ≤ (onTick { small with phase := 8#4 } (.write 0x00 4 11) .low).phase.toNat ∧
    (onTick { small with phase := 8#4 } (.write 0x00 4 11) .low).inputs.rst = false ∧
    decodeHop (onTick { small with phase := 8#4 } (.write 0x00 4 11) .low).inputs.hop = .ok .readDht11 ∧
    8 ≤ ({ small with phase := 15#4, script := [⟨true, .none, none⟩] } : State).phase.toNat ∧
    ({ small with phase := 15#4, script := [⟨true, .none, none⟩] } : State).inputs.rst = true := by decide

/-- `ResetPinHasPriority`, second clause: together with a write. -/
theorem test_meets_reset :
    ({ small with script := [⟨true, .write 0x00 4 11, none⟩] } : State).inputs.rst = true := by decide

/-- `StartInIdleGivesStartState` (each of its four forms), `IdlePhaseChangesNothing`. -/
theorem test_meets_start_in_idle :
    endP1.phase = 0#4 ∧
    (∀ i : Instr, ∀ v : Word,
      (i, v) ∈ [(.readDht11, 11#32), (.readDht22, 22#32), (.readAm2302, 2302#32), (.readOther 0#32, 0#32)] →
      (i = .readDht11 ∧ v = 11#32) ∨ (i = .readDht22 ∧ v = 22#32) ∨ (i = .readAm2302 ∧ v = 2302#32) ∨
        i = .readOther v) := by
  refine ⟨by decide, fun i v h => ?_⟩
  simp only [List.mem_cons, Prod.mk.injEq, List.mem_nil_iff, or_false] at h
  rcases h with ⟨rfl, rfl⟩ | ⟨rfl, rfl⟩ | ⟨rfl, rfl⟩ | ⟨rfl, rfl⟩ <;> simp

/-- `StartWhileBusyIsLost`: in the first and the last busy phase, with a next state. -/
theorem test_meets_start_while_busy :
    (inPhase .wakeHigh).phase ≠ 0#4 ∧ (inPhase .interpret).phase ≠ 0#4 ∧
    (fieldOf State.stype (exec .readDht11 (inPhase .wakeHigh))).isSome = true := by decide

theorem operable_of {s : State} (h : s.phase.toNat < 8) (hn : s.n < s.samples.length) : Operable s :=
  ⟨h, fun _ => hn, fun _ => hn.le⟩

/-- `NopRunsThePhaseRule`, `ReadsReturnThePreState`, `WritesToReadOnlyRegistersDoNothing`: idle, CAPTURE at the last entry of
the buffer, and EXTRACT on a full buffer. -/
theorem test_meets_operable :
    Operable small ∧ Operable { inPhase .capture with n := 7 } ∧ Operable { inPhase .extract with n := 8 } :=
  ⟨operable_of (by decide) (by decide), operable_of (by decide) (by decide),
    ⟨by decide, fun h => absurd h (by decide), fun _ => by decide⟩⟩

/-- `StatusWordLayout`. -/
theorem test_meets_status_layout :
    ∃ t, exec .rdStatus endP1 = .next t ∧ t.hrdata = some 0x00002806#32 := ⟨_, rfl, by decide⟩

/-- A script entry in which the host does nothing. -/
def quietTick (l : Level) : TickIn := ⟨false, .none, some l⟩

theorem quiet_of_entries {k : Nat} {s : State} (h : ∀ x ∈ s.script, ∃ l, x = quietTick l) : QuietFor k s := by
  intro x hx
  obtain ⟨l, rfl⟩ := h x (List.mem_of_mem_take hx)
  exact ⟨rfl, .nop, rfl⟩

/-- `IdleKeepsTheOutcomeIndefinitely`: a NOP, a read and an ignored write, then the script runs out. -/
theorem test_meets_idle_for :
    endP1.phase = 0#4 ∧
    IdleFor 5 { endP1 with script := [quietTick .low, ⟨false, .read 0x10 4, none⟩, ⟨false, .write 0x04 4 0, none⟩] } := by
  refine ⟨by decide, fun x hx => ?_⟩
  simp only [List.take_succ_cons, List.take_nil, List.mem_cons, List.mem_nil_iff, or_false] at hx
  rcases hx with rfl | rfl | rfl
  · exact ⟨rfl, .inl rfl⟩
  · exact ⟨rfl, .inr (.inl ⟨_, .rdType, rfl, rfl⟩)⟩
  · exact ⟨rfl, .inr (.inr ⟨_, _, .wrStatus 0, rfl, by decide, rfl⟩)⟩

/-- `GetReadingReturnsTheOutcome`: after a success and after a failure. -/
theorem test_meets_get_reading :
    ({ endP1 with script := scriptOf getReading 3 [] } : State).phase = 0#4 ∧
    ({ endP1 with script := scriptOf getReading 3 [] } : State).valid = true ∧
    ({ small with script := scriptOf getReading 3 [], done := true, err := 1#3 } : State).valid = false := by decide

/-- `WakeHasItsExactLength`. -/
theorem test_meets_wake :
    cfgB.Valid ∧ (inPhase .wakeHigh).hold = 0 ∧
    QuietFor 3 { inPhase .wakeHigh with script := [quietTick .high, quietTick .low, quietTick .low] } :=
  ⟨by decide, rfl, quiet_of_entries (by simp [quietTick])⟩

/-- `WakeHighTick`, `WakeLowTick`, `ResponseWaitTick`, `CaptureTick`: each side of each boundary. -/
theorem test_meets_tick_boundaries :
    (({ inPhase .wakeHigh with hold := 1 } : State).hold + 1 = cfgB.wakeHighTicks ∧ (inPhase .wakeHigh).hold + 1 ≠ cfgB.wakeHighTicks) ∧
    ((inPhase .wakeLow).hold + 1 = cfgB.wakeLowTicks ∧ ({ inPhase .wakeLow with hold := 1 } : State).hold + 1 ≠ cfgB.wakeLowTicks) ∧
    (({ inPhase .waitResp with wcnt := 3 } : State).wcnt + 1 = cfgB.respCap ∧ (inPhase .waitResp).wcnt + 1 ≠ cfgB.respCap) ∧
    ((inPhase .waitResp).lin = .high ∧ (inPhase .capture).lin = (inPhase .capture).last ∧
      ({ inPhase .capture with cnt := 3 } : State).cnt + 1 = cfgB.edgeCap ∧ (inPhase .capture).cnt + 1 ≠ cfgB.edgeCap) ∧
    ({ inPhase .capture with n := 7, lin := .low } : State).lin ≠ ({ inPhase .capture with n := 7, lin := .low } : State).last ∧
    ({ inPhase .capture with n := 7 } : State).n < (inPhase .capture).samples.length ∧
    ({ inPhase .capture with n := 7 } : State).n + 1 = cfgB.maxEdges ∧ (inPhase .capture).n + 1 ≠ cfgB.maxEdges := by decide

/-- A response wait with four ticks to come. -/
def waiting (l : Level) : State :=
  { inPhase .waitResp with script := [quietTick .high, quietTick .high, quietTick .high, quietTick l] }

/-- `ResponseWaitLength`: LOW at the last poll that may succeed, and no LOW at all. -/
theorem test_meets_response_wait :
    ((waiting .low).phase = 3#4 ∧ (waiting .low).wcnt = 0 ∧ 3 < (waiting .low).cfg.respCap ∧ QuietFor 4 (waiting .low) ∧
      (∀ k < 3, (waiting .low).levelAt k = .high) ∧ (waiting .low).levelAt 3 = .low) ∧
    (1 ≤ (waiting .high).cfg.respCap ∧ QuietFor 4 (waiting .high) ∧ ∀ k < 4, (waiting .high).levelAt k = .high) :=
  ⟨⟨by decide, by decide, by decide, quiet_of_entries (by simp [waiting, quietTick]), by decide, by decide⟩,
    by decide, quiet_of_entries (by simp [waiting, quietTick]), by decide⟩

/-- CAPTURE at a tick that records the last sample. -/
def recording : State := { inPhase .capture with n := 7, lin := .low }

/-- `SampleBufferFrame`: a recording tick of the phase instruction, of a read and of a lost START, a tick that records
nothing, and two instructions that do not run the rule. -/
theorem test_meets_buffer_frame :
    (recording.recordIndex = some 7 ∧ (inPhase .capture).recordIndex = none) ∧
    (RunsRule .capture .phCapture recording ∧ ∃ t, exec .phCapture recording = .next t) ∧
    (RunsRule .capture .rdStatus recording ∧ ∃ t, exec .rdStatus recording = .next t) ∧
    (RunsRule .capture .readDht11 recording ∧ ∃ t, exec .readDht11 recording = .next t) ∧
    (¬ RunsRule .capture .nop (inPhase .wakeLow) ∧ ∃ t, exec .nop (inPhase .wakeLow) = .next t) ∧
    (¬ RunsRule .capture .phWakeLow recording ∧ ∃ t, exec .phWakeLow recording = .next t) := by
  refine ⟨by decide, ⟨.inl rfl, ⟨_, rfl⟩⟩, ⟨.inr ⟨rfl, by decide, fun q => ?_⟩, ⟨_, rfl⟩⟩,
    ⟨.inr ⟨rfl, by decide, fun q => ?_⟩, ⟨_, rfl⟩⟩, ⟨?_, ⟨_, rfl⟩⟩, ⟨?_, ⟨_, rfl⟩⟩⟩
  · cases q <;> decide
  · cases q <;> decide
  · rintro (h | ⟨h, -⟩) <;> revert h <;> decide
  · rintro (h | ⟨-, -, h⟩)
    · revert h; decide
    · exact h .wakeLow rfl

/-- `MissingBufferEntriesFault`: the first entry that does not exist, for a store and for a read. -/
theorem test_meets_missing_entries :
    ({ inPhase .capture with n := 8, lin := .low } : State).lin ≠ (inPhase .capture).last ∧
    (inPhase .capture).samples.length ≤ ({ inPhase .capture with n := 8, lin := .low } : State).n ∧
    (inPhase .extract).samples.length < ({ inPhase .extract with n := 9 } : State).n := by decide

/-- `CaptureTakesItsSamplesAndDurations`: the state WAIT_RESP leaves, with a script shorter than the capture. -/
def capturing : State := { inPhase .capture with script := [quietTick .low, quietTick .high] }

theorem test_meets_whole_capture :
    capturing.cfg.Valid ∧ capturing.samples.length = capturing.cfg.maxEdges ∧ capturing.phase = 4#4 ∧ capturing.n = 0 ∧
    capturing.cnt = 0 ∧ QuietFor (capturing.cfg.maxEdges * capturing.cfg.edgeCap) capturing :=
  ⟨by decide, by decide, by decide, by decide, by decide, quiet_of_entries (by simp [capturing, quietTick])⟩

/-- `CaptureTicksAddUp`: a tick that stays in CAPTURE and the two that leave it. -/
theorem test_meets_ticks_add_up :
    fieldOf State.phase (exec .phCapture (inPhase .capture)) = some 4#4 ∧
    fieldOf (fun t => (t.phase, t.endc)) (exec .phCapture { inPhase .capture with n := 7, lin := .low }) = some (5#4, true) ∧
    fieldOf (fun t => (t.phase, t.endc)) (exec .phCapture { inPhase .capture with cnt := 3 }) = some (5#4, false) := by decide

/-- `ExtractPacksTheBitSamples`, `BitSamplesAreTheEvenSamples`: a full buffer that alternates. -/
theorem test_meets_extract :
    Alternates { inPhase .extract with n := 8, samples := samplesP5 } ∧
    ({ inPhase .extract with n := 8, samples := samplesP5 } : State).n ≤ samplesP5.length ∧
    ∃ t, exec .phExtract { inPhase .extract with n := 8, samples := samplesP5 } = .next t := by
  refine ⟨fun i x hi hx => ?_, by decide, ⟨_, rfl⟩⟩
  have hi' : i < 8 := hi
  interval_cases i <;> cases hx <;> rfl

/-- `CheckTick`: both outcomes. -/
theorem test_meets_check :
    (0xFC#8).toNat = ((0xFF#8).toNat + (0xFF#8).toNat + (0xFF#8).toNat + (0xFF#8).toNat) % 256 ∧
    (0xFF#8).toNat ≠ ((0xFF#8).toNat + (0xFF#8).toNat + (0xFF#8).toNat + (0xFF#8).toNat) % 256 := by decide

/-- `InterpretDht11`, `InterpretDht22`, `InterpretUnsupportedKind`, `CheckAndInterpretDependOnFrameAndType`. -/
theorem test_meets_interpret :
    (withFrame .interpret 11 Frame.zero).stype = 11#32 ∧ (withFrame .interpret 2302 Frame.zero).stype = 2302#32 ∧
    (withFrame .interpret 0x0001000B Frame.zero).stype ≠ 11#32 ∧ (withFrame .interpret 0x0001000B Frame.zero).stype ≠ 22#32 ∧
    (withFrame .interpret 0x0001000B Frame.zero).stype ≠ 2302#32 ∧
    (withFrame .interpret 11 Frame.zero).frame = ({ withFrame .check 11 Frame.zero with hum := 1 } : State).frame := by decide

/-- `PhaseSuccessors`, `LineIsIgnoredOutsideWaitAndCapture`, `ConfigurationAndInputsAreNotWritten`. -/
theorem test_meets_next_state :
    (∃ t, exec .nop (inPhase .check) = .next t) ∧ (inPhase .check).phase ≠ 3#4 ∧ (inPhase .check).phase ≠ 4#4 :=
  ⟨⟨_, rfl⟩, by decide, by decide⟩

/-- `OnlyResetAbandonsAnOperation`, `ReadingNeedsASupportedKind`: an operation that ends, with and without a reading. -/
theorem test_meets_operation_ends :
    (fieldOf State.phase (exec .nop (inPhase .check)) = some 7#4 ∧ (inPhase .interpret).phase ≠ 0#4 ∧
      fieldOf State.phase (exec .nop (inPhase .interpret)) = some 0#4) ∧
    ((withFrame .interpret 2302 Frame.zero).valid = false ∧
      fieldOf State.valid (exec .phInterpret (withFrame .interpret 2302 Frame.zero)) = some true) := by decide

/-- `EndOfAnOperation`, `ReadingIsWrittenOnlyOnSuccess`: an operation that succeeds, and one that fails. -/
theorem test_meets_end_of_operation :
    (inPhase .interpret).done = false ∧
    fieldOf (fun t => (t.done, t.valid, t.hum)) (exec .phInterpret (withFrame .interpret 22 ⟨0x02, 0x1A, 0x01, 0x04, 0x21⟩))
      = some (true, true, 0x021A#16) ∧
    fieldOf (fun t => (t.done, t.valid, t.err)) (exec .nop { inPhase .waitResp with wcnt := 3 }) = some (true, false, 1#3) := by
  decide

/-- `TypeIsWrittenOnlyByStart`, `CaptureFlagAndFrameWriters`: instructions that write them. -/
theorem test_meets_writers :
    (fieldOf State.stype (exec (.readOther 5#32) small) = some 5#32 ∧ small.stype ≠ 5#32) ∧
    (fieldOf State.endc (exec .nop { inPhase .capture with n := 7, lin := .low }) = some true ∧ (inPhase .capture).endc = false) ∧
    (fieldOf State.bitcnt (exec .nop { inPhase .extract with n := 8, samples := samplesP5 }) = some 2#6 ∧
      (inPhase .extract).bitcnt = 0#6) := by decide

/-- A running operation with the invariant: WAIT_RESP at its last poll. -/
def running : State := { inPhase .waitResp with stype := 22#32, wcnt := 3, script := [quietTick .high] }

theorem running_inv : StateInv running where
  cfgValid := by decide
  buffer := by decide
  phaseLegal := by decide
  holdHigh := by decide
  holdLow := by decide
  wcnt := by decide
  cnt := by decide
  nBudget := by decide
  nCapture := by decide
  bitcnt := by decide
  durations := by decide
  levels := fun _ _ h => absurd h (by simp [running, inPhase, small, State.resetWith])
  lastLevel := by decide
  validEnds := by decide
  busyClear := by decide
  idleFresh := fun h => absurd h (by decide)
  outcome := by decide
  endcFresh := by decide
  frameFresh := by decide
  enoughBits := by decide
  noResponseRecord := by decide
  shortRecord := by decide
  fullRecord := by decide

/-- The hypotheses of `StoredSamplesFitTheirEntries`: a cap of 1, the largest duration, a state with entries. -/
theorem test_meets_stored_samples :
    (1 ≤ 1 ∧ durationBits 1 ≤ 0) ∧ (⟨.high, 999⟩ : Sample).duration < 1000 ∧ StateInv running ∧
    ⟨.low, 0⟩ ∈ running.samples := ⟨by decide, by decide, running_inv, by decide⟩

/-- `StepKeepsTheInvariant`, `NoTickFaults`, `EveryOperationEnds`. -/
theorem test_meets_invariant :
    StateInv running ∧ running.phase ≠ 0#4 ∧ QuietFor (operationBound running.cfg) running ∧ ∃ t, step running = .next t :=
  ⟨running_inv, by decide, quiet_of_entries (by simp [running, quietTick]), ⟨_, rfl⟩⟩

/-- `EveryRunFromResetMeetsTheInvariant`: a run of one tick with a START. -/
theorem test_meets_run_from_reset :
    cfgB.Valid ∧ ∃ t, run 1 { State.resetWith cfgB with script := [⟨false, .write 0x00 4 22, none⟩] } = .next t :=
  ⟨by decide, ⟨_, rfl⟩⟩

/-- `StartForgetsTheHistory`: idle states with different pasts, of different lengths. -/
theorem test_meets_two_histories :
    small.phase = 0#4 ∧ ({ endP1 with tick := 13266 } : State).phase = 0#4 ∧ small.cfg = endP1.cfg ∧
    small.samples.length = endP1.samples.length ∧ small.hum ≠ endP1.hum ∧ small.tick ≠ 13266 := by decide

/-- An operation one tick before its success, early and without an old reading. -/
def early : State := { withFrame .interpret 22 ⟨0x02, 0x1A, 0x01, 0x04, 0x21⟩ with script := [quietTick .high] }

/-- The same operation as in V19: run again later, with an old reading, another buffer and more ticks to come. -/
def late : State :=
  { early with
    hum := 1, temp := 2, tick := 40654, samples := samplesP5, script := [quietTick .high, quietTick .low] }

theorem early_late : SameOperation early late := by constructor <;> rfl

/-- `SameInputsGiveTheSameOutcome`. -/
theorem test_meets_same_operation :
    SameOperation early late ∧ SameInputsFor 1 early late ∧ early.valid = false ∧ early.tick ≠ late.tick ∧
    fieldOf State.valid (run 1 early) = some true :=
  ⟨early_late, by unfold SameInputsFor; decide, by decide, by decide, by decide⟩

/-- `OutcomeDependsOnTheLineAlone`: the later host reads STATUS in the tick in which the earlier does nothing. -/
theorem test_meets_line_alone :
    SameOperation early { late with script := [⟨false, .read 0x04 4, some .high⟩] } ∧ QuietFor 1 early ∧
    QuietFor 1 { late with script := [⟨false, .read 0x04 4, some .high⟩] } ∧
    (∀ j < 1, early.levelAt j = ({ late with script := [⟨false, .read 0x04 4, some .high⟩] } : State).levelAt j) ∧
    (∀ j < 1, ∃ u, run j early = .next u ∧ u.phase ≠ 0#4) ∧ ∃ t, run 1 early = .next t := by
  refine ⟨by constructor <;> rfl, quiet_of_entries (by simp [early, quietTick]), fun x hx => ?_, by decide, fun j hj => ?_, ⟨_, rfl⟩⟩
  · obtain rfl : x = ⟨false, .read 0x04 4, some .high⟩ := by simpa using hx
    exact ⟨rfl, .rdStatus, rfl⟩
  · obtain rfl : j = 0 := by omega
    exact ⟨_, rfl, by decide⟩

end Sys2Proof.Tests
end

section
/-! The scope statements (00_scope.md): what the reset configuration meets, and that no instruction writes the configuration
or the inputs. -/

namespace Sys2Proof

/-- `ticksFor` rounds up: the ticks it counts last at least the time asked for (R114). -/
theorem Config.le_ticksFor_mul (ns : Nat) {p : Nat} (hp : 0 < p) : ns ≤ Config.ticksFor ns p * p := by
  have h := le_smul_ceilDiv hp (b := ns)
  rwa [Nat.ceilDiv_eq_add_pred_div, smul_eq_mul, Nat.mul_comm] at h

theorem Config.ticksFor_pos {ns p : Nat} (hns : 0 < ns) (hp : 0 < p) : 0 < Config.ticksFor ns p :=
  Nat.pos_of_mul_pos_right (hns.trans_le (Config.le_ticksFor_mul ns hp))

/-- R6: whatever the free values are, each parameter meets its constraint. -/
theorem Config.free_valid : Config.free.Valid := by
  have hp : 0 < Config.freePoll + 1 := Nat.succ_pos _
  have hHigh : 1 ≤ Config.free.wakeHighTicks := Nat.le_add_right_of_le (Config.ticksFor_pos (by decide) hp)
  have hLow : 1 ≤ Config.free.wakeLowTicks := Nat.le_add_right_of_le (Config.ticksFor_pos (by decide) hp)
  exact ⟨hHigh, hLow, Nat.succ_pos _, by decide, by decide, hp, Nat.mul_mod_right 4 _⟩

/-- R114: the free values only add ticks to the least counts that last the wake times. -/
theorem Config.free_meetsWakeTimes : Config.free.MeetsWakeTimes := by
  have hp : 0 < Config.freePoll + 1 := Nat.succ_pos _
  exact ⟨(Config.le_ticksFor_mul _ hp).trans (Nat.mul_le_mul_right _ (Nat.le_add_right _ _)),
    (Config.le_ticksFor_mul _ hp).trans (Nat.mul_le_mul_right _ (Nat.le_add_right _ _))⟩

namespace Machine

/-- `t` has the configuration and the inputs of `s`: the fields of the state that are no registers (R6, R34). -/
def SameConfigAndInputs (s t : State) : Prop :=
  t.cfg = s.cfg ∧ t.lin = s.lin ∧ t.tick = s.tick ∧ t.script = s.script

theorem pulseGoesOn_sameConfigAndInputs (s : State) : SameConfigAndInputs s s.pulseGoesOn := by
  unfold State.pulseGoesOn
  split <;> exact ⟨rfl, rfl, rfl, rfl⟩

theorem pulseEnds_sameConfigAndInputs (s : State) : SameConfigAndInputs s s.pulseEnds := by
  unfold State.pulseEnds
  split <;> exact ⟨rfl, rfl, rfl, rfl⟩

/-- The phase rules write registers only. -/
theorem phaseInstr_sameConfigAndInputs {p : Phase} {s t : State} (h : exec p.instr s = .next t) :
    SameConfigAndInputs s t := by
  rcases phaseInstr_next_cases h with ⟨-, rfl⟩ | ⟨-, rfl⟩ | ⟨-, rfl⟩ | ⟨-, rfl⟩ | ⟨-, -, rfl⟩ | ⟨-, -, rfl⟩ | ⟨-, rfl⟩ |
    ⟨-, ⟨k, -, rfl⟩ | ⟨-, rfl⟩⟩
  · exact ⟨rfl, rfl, rfl, rfl⟩
  · split <;> exact ⟨rfl, rfl, rfl, rfl⟩
  · split <;> exact ⟨rfl, rfl, rfl, rfl⟩
  · repeat' split
    all_goals exact ⟨rfl, rfl, rfl, rfl⟩
  · split
    · exact pulseGoesOn_sameConfigAndInputs s
    · exact pulseEnds_sameConfigAndInputs s
  · split <;> exact ⟨rfl, rfl, rfl, rfl⟩
  · split <;> exact ⟨rfl, rfl, rfl, rfl⟩
  · exact ⟨rfl, rfl, rfl, rfl⟩
  · exact ⟨rfl, rfl, rfl, rfl⟩

/-- Every instruction writes registers and the read port only; RESET and START name what they keep. -/
theorem exec_sameConfigAndInputs {i : Instr} {s t : State} (h : exec i s = .next t) : SameConfigAndInputs s t := by
  rcases exec_next_cases h with ⟨-, rfl⟩ | ⟨v, -, -, rfl⟩ | ⟨p, -, hp⟩ | ⟨p, u, -, hp, rfl | ⟨w, rfl⟩⟩
  · exact ⟨rfl, rfl, rfl, rfl⟩
  · exact ⟨rfl, rfl, rfl, rfl⟩
  · exact phaseInstr_sameConfigAndInputs hp
  · exact phaseInstr_sameConfigAndInputs hp
  · obtain ⟨hcfg, hlin, htick, hscript⟩ := phaseInstr_sameConfigAndInputs hp
    exact ⟨hcfg, hlin, htick, hscript⟩

end Machine

/-- Settles O45, from the frame of every instruction. -/
theorem configurationAndInputsAreNotWritten : Obligations.ConfigurationAndInputsAreNotWritten :=
  fun _ _ _ h => Machine.exec_sameConfigAndInputs h

/-- Settles O8: the configuration of `State.reset` is `Config.free`, and its three defaults are those of R6. -/
theorem resetConfigurationMeetsTheConstraints : Obligations.ResetConfigurationMeetsTheConstraints :=
  ⟨Config.free_valid, Config.free_meetsWakeTimes, rfl, rfl, rfl⟩

end Sys2Proof
end

section
/-! The state's invariant (10_state.md R33). Read phase by phase it is short: bounds that hold in every phase, and what the
phase adds. Each phase rule then has one lemma, from what its phase adds to the invariant of the next state. -/

namespace Sys2Proof

theorem Config.Valid.wakeHighTicks_pos {c : Config} : c.Valid → 0 < c.wakeHighTicks := fun ⟨h, _⟩ => h
theorem Config.Valid.wakeLowTicks_pos {c : Config} : c.Valid → 0 < c.wakeLowTicks := fun ⟨_, h, _⟩ => h
theorem Config.Valid.respCap_pos {c : Config} : c.Valid → 0 < c.respCap := fun ⟨_, _, h, _⟩ => h
theorem Config.Valid.edgeCap_pos {c : Config} : c.Valid → 0 < c.edgeCap := fun ⟨_, _, _, h, _⟩ => h
theorem Config.Valid.maxEdges_pos {c : Config} : c.Valid → 0 < c.maxEdges := fun ⟨_, _, _, _, h, _⟩ => h

namespace Machine

/-! ### The invariant, phase by phase -/

/-- The part of `StateInv` that does not depend on the phase. -/
structure StateBounds (s : State) : Prop where
  cfgValid : s.cfg.Valid
  buffer : s.samples.length = s.cfg.maxEdges
  wcnt : s.wcnt < s.cfg.respCap
  cnt : s.cnt < s.cfg.edgeCap
  nBudget : s.n ≤ s.cfg.maxEdges
  bitcnt : s.bitcnt.toNat ≤ 40
  durations : ∀ x ∈ s.samples, x.duration < s.cfg.edgeCap
  levels : Alternates s

/-- A running operation has no outcome yet (R33, sixth point). -/
abbrev NoOutcome (s : State) : Prop := s.done = false ∧ s.valid = false ∧ s.err = 0#3

/-- The frame and its bit count before EXTRACT has written them (R97). -/
abbrev FrameUnwritten (s : State) : Prop := s.bitcnt = 0#6 ∧ s.frame = Frame.zero

/-- An idle block is as reset left it, or holds one outcome with the record R182 says it leaves. -/
structure AtRest (s : State) : Prop where
  fresh : s.done = false → InResetState s
  validEnds : s.valid = true → s.done = true ∧ s.err = 0#3
  outcome : s.done = true → (s.valid = true ∧ s.err = 0#3) ∨ (s.valid = false ∧ 1 ≤ s.err.toNat ∧ s.err.toNat ≤ 5)
  noResponseRecord : s.err = 1#3 → s.bitcnt = 0#6 ∧ s.endc = false
  shortRecord : s.err = 2#3 ∨ s.err = 3#3 → s.bitcnt.toNat < 39 ∧ (s.endc = true ↔ s.err = 3#3)
  fullRecord : s.err = 4#3 ∨ s.err = 5#3 ∨ s.valid = true → 39 ≤ s.bitcnt.toNat

/-- What a state of a running operation adds to `NoOutcome`, by its phase. -/
def RunningInv (p : Phase) (s : State) : Prop :=
  match p with
  | .idle => False
  | .wakeHigh => FrameUnwritten s ∧ s.endc = false ∧ s.hold < s.cfg.wakeHighTicks
  | .wakeLow => FrameUnwritten s ∧ s.endc = false ∧ s.hold < s.cfg.wakeLowTicks
  | .waitResp => FrameUnwritten s ∧ s.endc = false
  | .capture => FrameUnwritten s ∧ s.endc = false ∧ s.n < s.cfg.maxEdges ∧ s.last = levelOfIndex s.n
  | .extract => FrameUnwritten s
  | .check | .interpret => 39 ≤ s.bitcnt.toNat

theorem StateInv.bounds {s : State} (h : StateInv s) : StateBounds s :=
  ⟨h.cfgValid, h.buffer, h.wcnt, h.cnt, h.nBudget, h.bitcnt, h.durations, h.levels⟩

theorem busy_of_code {s : State} {p : Phase} (hp : s.phase = p.code) (hi : p ≠ .idle) : s.phase ≠ Phase.idle.code :=
  fun h => hi ((code_inj _ _).1 (hp.symm.trans h))

theorem StateInv.noOutcome {s : State} {p : Phase} (h : StateInv s) (hp : s.phase = p.code) (hi : p ≠ .idle) :
    NoOutcome s := h.busyClear (busy_of_code hp hi)

theorem StateInv.running {s : State} {p : Phase} (h : StateInv s) (hp : s.phase = p.code) (hi : p ≠ .idle) :
    RunningInv p s := by
  have hbusy := busy_of_code hp hi
  have hframe (hle : s.phase.toNat ≤ 5) : FrameUnwritten s := h.frameFresh hbusy hle
  cases p with
  | idle => exact hi rfl
  | wakeHigh => exact ⟨hframe (by simp [hp]), h.endcFresh hbusy (by simp [hp]), h.holdHigh hp⟩
  | wakeLow => exact ⟨hframe (by simp [hp]), h.endcFresh hbusy (by simp [hp]), h.holdLow hp⟩
  | waitResp => exact ⟨hframe (by simp [hp]), h.endcFresh hbusy (by simp [hp])⟩
  | capture => exact ⟨hframe (by simp [hp]), h.endcFresh hbusy (by simp [hp]), h.nCapture hp, h.lastLevel hp⟩
  | extract => exact hframe (by simp [hp])
  | check | interpret => exact h.enoughBits (by simp [hp])

theorem StateInv.of_atRest {s : State} (hb : StateBounds s) (hp : s.phase = Phase.idle.code) (h : AtRest s) :
    StateInv s :=
  { hb, h with
    phaseLegal := by simp [hp]
    holdHigh := by simp [hp]
    holdLow := by simp [hp]
    nCapture := by simp [hp]
    lastLevel := by simp [hp]
    validEnds := fun hv => ⟨(h.validEnds hv).1, (h.validEnds hv).2, hp⟩
    busyClear := fun hb => absurd hp hb
    idleFresh := fun _ => h.fresh
    endcFresh := fun hb => absurd hp hb
    frameFresh := fun hb => absurd hp hb
    enoughBits := by simp [hp] }

theorem StateInv.of_running {s : State} {p : Phase} (hb : StateBounds s) (hp : s.phase = p.code) (hn : NoOutcome s)
    (h : RunningInv p s) : StateInv s := by
  have hbusy : s.phase ≠ Phase.idle.code := busy_of_code hp fun hi => by simp [hi, RunningInv] at h
  have ⟨hdone, hvalid, herr⟩ := hn
  exact { hb with
    phaseLegal := by cases p <;> simp [hp]
    holdHigh := by cases p <;> simp_all [RunningInv]
    holdLow := by cases p <;> simp_all [RunningInv]
    nCapture := by cases p <;> simp_all [RunningInv]
    lastLevel := by cases p <;> simp_all [RunningInv]
    validEnds := by simp [hvalid]
    busyClear := fun _ => hn
    idleFresh := fun hi => absurd hi hbusy
    outcome := by simp [hdone]
    endcFresh := by cases p <;> simp_all [RunningInv]
    frameFresh := by cases p <;> simp_all [RunningInv]
    enoughBits := by cases p <;> simp_all [RunningInv]
    noResponseRecord := by simp [herr]
    shortRecord := by simp [herr]
    fullRecord := by simp [herr, hvalid] }

/-! ### What keeps the bounds -/

theorem StateBounds.goto {s : State} (h : StateBounds s) (p : Phase) : StateBounds (s.goto p) := { h with }

theorem StateBounds.raise {s : State} (h : StateBounds s) (e : ErrorKind) : StateBounds (s.raise e) := { h with }

/-- The registers an operation begins with are within the bounds of every valid configuration. -/
theorem StateBounds.start {s : State} (h : StateBounds s) (v : Word) : StateBounds (s.start v) :=
  { h with
    wcnt := h.cfgValid.respCap_pos
    cnt := h.cfgValid.edgeCap_pos
    nBudget := Nat.zero_le _
    bitcnt := by simp
    levels := fun i _ hi => absurd hi (Nat.not_lt_zero i) }

/-- The 6-bit register holds the bit count without wrapping (R16). -/
theorem extracted_bitcnt_toNat (s : State) :
    s.extracted.bitcnt.toNat = (extractAll s.cfg.bitThreshold (s.samples.take s.n)).1 := by
  have hle := frameBitsOf_length_le s.cfg.bitThreshold (s.samples.take s.n)
  rw [State.extracted_bitcnt, BitVec.toNat_ofNat, extractAll_eq]
  exact Nat.mod_eq_of_lt (by omega)

theorem StateBounds.extracted {s : State} (h : StateBounds s) : StateBounds s.extracted :=
  { h with
    bitcnt := by
      rw [extracted_bitcnt_toNat, extractAll_eq]
      exact frameBitsOf_length_le _ _ }

/-- The level that follows the one of index `i` is the one of the next index (R130). -/
theorem eq_levelOfIndex_succ {l : Level} {i : Nat} (h : l ≠ levelOfIndex i) : l = levelOfIndex (i + 1) := by
  have hpar : (i + 1) % 2 = 0 ↔ ¬ i % 2 = 0 := by omega
  unfold levelOfIndex at *
  by_cases hi : i % 2 = 0 <;> cases l <;> simp_all

/-- Recording a pulse of the level of the next index keeps the alternation (R130). -/
theorem record_alternates {s : State} (h : Alternates s) (hl : s.last = levelOfIndex s.n) : Alternates s.record := by
  intro i x hi hx
  rcases Nat.lt_succ_iff_lt_or_eq.1 hi with hlt | rfl
  · exact h i x hlt (by rwa [State.record_samples, List.getElem?_set_ne hlt.ne'] at hx)
  · rw [State.record_samples, List.getElem?_set_self', Option.map_eq_map, Option.map_eq_some_iff] at hx
    obtain ⟨-, -, rfl⟩ := hx
    exact hl

theorem StateBounds.record {s : State} (h : StateBounds s) (hn : s.n < s.cfg.maxEdges) (hl : s.last = levelOfIndex s.n) :
    StateBounds s.record :=
  { h with
    buffer := (record_buffer_length s).trans h.buffer
    cnt := h.cfgValid.edgeCap_pos
    nBudget := hn
    durations := record_durations h.durations h.cnt
    levels := record_alternates h.levels hl }

/-! ### The ends of an operation -/

/-- What each error leaves in the bit count and ENDC (R182). -/
def ErrorRecord (e : ErrorKind) (s : State) : Prop :=
  match e with
  | .noResponse => s.bitcnt = 0#6 ∧ s.endc = false
  | .timingTimeout => s.bitcnt.toNat < 39 ∧ s.endc = false
  | .incompleteFrame => s.bitcnt.toNat < 39 ∧ s.endc = true
  | .checksumMismatch | .unsupportedType => 39 ≤ s.bitcnt.toNat

theorem errorRecord_shortFrame {s : State} (h : s.bitcnt.toNat < 39) : ErrorRecord (shortFrameError s.endc) s := by
  cases hc : s.endc
  · exact ⟨h, hc⟩
  · exact ⟨h, hc⟩

theorem StateInv.of_raise {s : State} {e : ErrorKind} (hb : StateBounds s) (h : ErrorRecord e s) :
    StateInv (s.raise e) :=
  .of_atRest (hb.raise e) rfl
    { fresh := by simp
      validEnds := by simp
      outcome := by cases e <;> simp [ErrorKind.code]
      noResponseRecord := by cases e <;> simp_all [ErrorRecord, ErrorKind.code]
      shortRecord := by cases e <;> simp_all [ErrorRecord, ErrorKind.code]
      fullRecord := by cases e <;> simp_all [ErrorRecord, ErrorKind.code] }

theorem StateInv.of_succeed {s : State} (hb : StateBounds s) (hbits : 39 ≤ s.bitcnt.toNat) : StateInv s.succeed :=
  .of_atRest { hb with } rfl
    { fresh := by simp
      validEnds := by simp
      outcome := by simp
      noResponseRecord := by simp
      shortRecord := by simp
      fullRecord := fun _ => hbits }

/-! ### The beginning of an operation -/

theorem start_stateInv {s : State} (h : StateBounds s) (v : Word) : StateInv (s.start v) :=
  .of_running (p := .wakeHigh) (h.start v) rfl ⟨rfl, rfl, rfl⟩ ⟨⟨rfl, rfl⟩, rfl, h.cfgValid.wakeHighTicks_pos⟩

/-! ### The phase rules -/

theorem execPhWakeHigh_keeps_stateInv {s t : State} (h : StateInv s) (hp : s.phase = Phase.wakeHigh.code)
    (hx : execPhWakeHigh s = .next t) : StateInv t := by
  obtain ⟨hframe, hendc, hhold⟩ := h.running hp (by decide)
  have hno := h.noOutcome hp (by decide)
  simp only [execPhWakeHigh, Host.Outcome.next.injEq] at hx
  subst hx
  split
  · exact .of_running (p := .wakeLow) { h.bounds with } rfl hno ⟨hframe, hendc, h.cfgValid.wakeLowTicks_pos⟩
  · exact .of_running { h.bounds with } hp hno ⟨hframe, hendc, by simp only; omega⟩

theorem execPhWakeLow_keeps_stateInv {s t : State} (h : StateInv s) (hp : s.phase = Phase.wakeLow.code)
    (hx : execPhWakeLow s = .next t) : StateInv t := by
  obtain ⟨hframe, hendc, hhold⟩ := h.running hp (by decide)
  have hno := h.noOutcome hp (by decide)
  simp only [execPhWakeLow, Host.Outcome.next.injEq] at hx
  subst hx
  split
  · exact .of_running (p := .waitResp) { h.bounds with wcnt := h.cfgValid.respCap_pos } rfl hno
      ⟨hframe, hendc⟩
  · exact .of_running { h.bounds with } hp hno ⟨hframe, hendc, by simp only; omega⟩

theorem execPhWaitResp_keeps_stateInv {s t : State} (h : StateInv s) (hp : s.phase = Phase.waitResp.code)
    (hx : execPhWaitResp s = .next t) : StateInv t := by
  obtain ⟨hframe, hendc⟩ := h.running hp (by decide)
  have hno := h.noOutcome hp (by decide)
  have hwcnt := h.wcnt
  simp only [execPhWaitResp, Host.Outcome.next.injEq] at hx
  subst hx
  split
  · exact .of_running (p := .capture)
      { h.bounds with
        cnt := h.cfgValid.edgeCap_pos
        nBudget := Nat.zero_le _
        levels := fun i _ hi => absurd hi (Nat.not_lt_zero i) }
      rfl hno ⟨hframe, hendc, h.cfgValid.maxEdges_pos, rfl⟩
  · split
    · exact .of_raise h.bounds ⟨hframe.1, hendc⟩
    · exact .of_running { h.bounds with wcnt := by simp only; omega } hp hno ⟨hframe, hendc⟩

theorem pulseGoesOn_keeps_stateInv {s : State} (h : StateInv s) (hp : s.phase = Phase.capture.code) :
    StateInv s.pulseGoesOn := by
  obtain ⟨hframe, hendc, hn, hlast⟩ := h.running hp (by decide)
  have hno := h.noOutcome hp (by decide)
  have hcnt := h.cnt
  unfold State.pulseGoesOn
  split
  · exact .of_running (p := .extract) { h.bounds with } rfl hno hframe
  · exact .of_running { h.bounds with cnt := by simp only; omega } hp hno ⟨hframe, hendc, hn, hlast⟩

theorem pulseEnds_keeps_stateInv {s : State} (h : StateInv s) (hp : s.phase = Phase.capture.code) (hl : s.lin ≠ s.last) :
    StateInv s.pulseEnds := by
  obtain ⟨hframe, hendc, hn, hlast⟩ := h.running hp (by decide)
  have hno := h.noOutcome hp (by decide)
  have hb : StateBounds s.record := h.bounds.record hn hlast
  unfold State.pulseEnds
  split
  · exact .of_running (p := .extract) { hb with } rfl hno hframe
  · exact .of_running hb hp hno
      ⟨hframe, hendc, by simp only [State.record_n, State.record_cfg]; omega, eq_levelOfIndex_succ (hlast ▸ hl)⟩

theorem execPhCapture_keeps_stateInv {s t : State} (h : StateInv s) (hp : s.phase = Phase.capture.code)
    (hx : execPhCapture s = .next t) : StateInv t := by
  obtain ⟨-, rfl⟩ := execPhCapture_eq_next.1 hx
  split
  · exact pulseGoesOn_keeps_stateInv h hp
  · exact pulseEnds_keeps_stateInv h hp ‹_›

theorem execPhExtract_keeps_stateInv {s t : State} (h : StateInv s) (hp : s.phase = Phase.extract.code)
    (hx : execPhExtract s = .next t) : StateInv t := by
  have hno := h.noOutcome hp (by decide)
  obtain ⟨-, rfl⟩ := execPhExtract_eq_next.1 hx
  rw [← extracted_bitcnt_toNat]
  split
  · exact .of_raise h.bounds.extracted (errorRecord_shortFrame ‹_›)
  · exact .of_running (p := .check) (h.bounds.extracted.goto _) rfl hno (Nat.not_lt.1 ‹_›)

theorem execPhCheck_keeps_stateInv {s t : State} (h : StateInv s) (hp : s.phase = Phase.check.code)
    (hx : execPhCheck s = .next t) : StateInv t := by
  have hbits : 39 ≤ s.bitcnt.toNat := h.running hp (by decide)
  have hno := h.noOutcome hp (by decide)
  simp only [execPhCheck, Host.Outcome.next.injEq] at hx
  subst hx
  split
  · exact .of_running (p := .interpret) (h.bounds.goto _) rfl hno hbits
  · exact .of_raise h.bounds hbits

theorem execPhInterpret_keeps_stateInv {s t : State} (h : StateInv s) (hp : s.phase = Phase.interpret.code)
    (hx : execPhInterpret s = .next t) : StateInv t := by
  have hbits : 39 ≤ s.bitcnt.toNat := h.running hp (by decide)
  simp only [execPhInterpret, Host.Outcome.next.injEq] at hx
  subst hx
  split
  · exact .of_succeed { h.bounds with } hbits
  · exact .of_raise h.bounds hbits

/-- The rule of the phase the block is in keeps the invariant. -/
theorem phaseRule_keeps_stateInv {p : Phase} {s t : State} (h : StateInv s) (hp : s.phase = p.code)
    (hx : exec p.instr s = .next t) : StateInv t := by
  cases p with
  | idle => cases hx; exact h
  | wakeHigh => exact execPhWakeHigh_keeps_stateInv h hp hx
  | wakeLow => exact execPhWakeLow_keeps_stateInv h hp hx
  | waitResp => exact execPhWaitResp_keeps_stateInv h hp hx
  | capture => exact execPhCapture_keeps_stateInv h hp hx
  | extract => exact execPhExtract_keeps_stateInv h hp hx
  | check => exact execPhCheck_keeps_stateInv h hp hx
  | interpret => exact execPhInterpret_keeps_stateInv h hp hx

/-! ### Reset, a tick's inputs and the read port -/

/-- A state with the registers of R32, a valid configuration and a buffer of entries below the cap has the invariant. -/
theorem StateInv.of_inResetState {s : State} (hc : s.cfg.Valid) (hlen : s.samples.length = s.cfg.maxEdges)
    (hdur : ∀ x ∈ s.samples, x.duration < s.cfg.edgeCap) (h : InResetState s) : StateInv s := by
  have hb : StateBounds s :=
    { cfgValid := hc
      buffer := hlen
      wcnt := h.wcnt ▸ hc.respCap_pos
      cnt := h.cnt ▸ hc.edgeCap_pos
      nBudget := h.n ▸ Nat.zero_le _
      bitcnt := by simp [h.bitcnt]
      durations := hdur
      levels := fun i _ hi => absurd (h.n ▸ hi) (Nat.not_lt_zero i) }
  exact .of_atRest hb h.phase
    { fresh := fun _ => h
      validEnds := by simp [h.valid]
      outcome := by simp [h.done]
      noResponseRecord := by simp [h.err]
      shortRecord := by simp [h.err]
      fullRecord := by simp [h.err, h.valid] }

theorem resetWith_inResetState (c : Config) : InResetState (State.resetWith c) := by constructor <;> rfl

theorem resetWith_stateInv {c : Config} (hc : c.Valid) : StateInv (State.resetWith c) :=
  .of_inResetState hc (freeBuffer_length c 0) (freeBuffer_durations hc.edgeCap_pos 0) (resetWith_inResetState c)

theorem toReset_stateInv {s : State} (hc : s.cfg.Valid) : StateInv s.toReset :=
  .of_inResetState hc (freeBuffer_length s.cfg s.tick) (freeBuffer_durations hc.edgeCap_pos s.tick)
    { resetWith_inResetState s.cfg with }

/-- The fields that are no registers (the read port, the sampled level, the tick counter and the ticks to come) are free in
the invariant. -/
theorem StateInv.with_inputs {s : State} (h : StateInv s) (hrdata : Option Word) (lin : Level) (tick : Nat)
    (script : List TickIn) :
    StateInv { s with hrdata := hrdata, lin := lin, tick := tick, script := script } :=
  { h with idleFresh := fun hi hd => { h.idleFresh hi hd with } }

/-! ### A step and a run -/

theorem decodeRead_ne_phaseInstr (off : Word) (p : Phase) : decodeRead off ≠ .ok p.instr := by
  rw [Ne, decodeRead_ok_iff]
  cases p <;> simp [Phase.instr]

theorem decodeCommand_ne_phaseInstr (v : Word) (p : Phase) : decodeCommand v ≠ p.instr := by
  rcases decodeCommand_cases v with ⟨-, hc⟩ | ⟨-, hc⟩ | ⟨-, hc⟩ | ⟨-, -, -, hc⟩ <;> rw [hc] <;>
    cases p <;> simp [Phase.instr]

theorem decodeWrite_ne_phaseInstr (off v : Word) (p : Phase) : decodeWrite off v ≠ .ok p.instr := by
  have hcommand := (decodeCommand_ne_phaseInstr v p).symm
  rw [Ne, decodeWrite_ok_iff]
  cases p <;> simp_all [Phase.instr]

/-- The host side of a tick never selects a phase instruction: PHASE is a class of its own (R62). -/
theorem fetch_ne_phaseInstr {s : State} {i : Instr} (h : fetch s = .ok i) (p : Phase) : i ≠ p.instr := by
  rintro rfl
  cases hr : s.inputs.rst with
  | true =>
    rw [fetch, hr] at h
    cases p <;> cases h
  | false =>
    rw [fetch, hr] at h
    rcases decodeHop_ok_cases h with ⟨-, hi⟩ | ⟨off, -, hd⟩ | ⟨off, v, -, hd⟩
    · cases p <;> cases hi
    · exact decodeRead_ne_phaseInstr off p hd
    · exact decodeWrite_ne_phaseInstr off v p hd

theorem step_keeps_stateInv {s t : State} (h : StateInv s) (hs : step s = .next t) : StateInv t := by
  obtain ⟨i, hf, hx⟩ := step_next_cases hs
  have hbegin : StateInv (beginTick s) := h.with_inputs _ _ _ _
  rcases exec_next_cases hx with ⟨-, rfl⟩ | ⟨v, -, -, rfl⟩ | ⟨p, hi, -⟩ | ⟨p, u, hp, hu, rfl | ⟨w, rfl⟩⟩
  · exact toReset_stateInv hbegin.cfgValid
  · exact start_stateInv hbegin.bounds v
  · exact absurd hi (fetch_ne_phaseInstr hf p)
  · exact phaseRule_keeps_stateInv hbegin hp hu
  · exact (phaseRule_keeps_stateInv hbegin hp hu).with_inputs _ _ _ _

theorem run_keeps_stateInv {k : Nat} {s t : State} (h : StateInv s) (hr : run k s = .next t) : StateInv t := by
  induction k generalizing s with
  | zero => cases hr; exact h
  | succ k ih =>
    obtain ⟨u, hu, hr⟩ := run_succ_next_cases hr
    exact ih (step_keeps_stateInv h hu) hr

/-- A state with the invariant has the buffer entries its phase rule uses (R28). -/
theorem operable_of_stateInv {s : State} (h : StateInv s) : Operable s where
  phaseLegal := h.phaseLegal
  capture hp := h.buffer ▸ h.nCapture hp
  extract _ := h.buffer ▸ h.nBudget

end Machine

/-- Settles O47: a tick is a reset, an accepted START or the rule of the phase, and each keeps the invariant. -/
theorem stepKeepsTheInvariant : Obligations.StepKeepsTheInvariant :=
  fun _ _ => Machine.step_keeps_stateInv

/-- Settles O48, by induction on the number of ticks. -/
theorem everyRunFromResetMeetsTheInvariant : Obligations.EveryRunFromResetMeetsTheInvariant :=
  fun _ script _ _ hc hr => Machine.run_keeps_stateInv ((Machine.resetWith_stateInv hc).with_inputs _ _ _ script) hr

/-- Settles O46: the configuration of `State.reset` is a valid one. -/
theorem resetMeetsTheInvariant : Obligations.ResetMeetsTheInvariant :=
  Machine.resetWith_stateInv Config.free_valid

/-- Settles O7: `State.reset` is the reset state of the configuration `Config.free`. -/
theorem resetLeavesTheRegistersOfR32 : Obligations.ResetLeavesTheRegistersOfR32 :=
  ⟨Machine.resetWith_inResetState Config.free, rfl, Machine.reset_buffer_length⟩

end Sys2Proof
end

section
/-! Who writes which register, which phase follows which, the step and the outputs (10_state.md R10 to R20, R28, R31). -/

namespace Sys2Proof
namespace Machine

/-! ### What an instruction runs -/

/-- An instruction resets the block, begins an operation, or runs one phase rule, its own or that of the phase in `phase`; a
read also sets the read port (R11). -/
theorem exec_next_rule_cases {i : Instr} {s t : State} (h : exec i s = .next t) :
    (i = .reset ∧ t = s.toReset) ∨
    (∃ v, startValue i = some v ∧ s.phase = Phase.idle.code ∧ t = s.start v) ∨
    (∃ (p : Phase) (u : State) (w : Option Word), (i = p.instr ∨ s.phase = p.code) ∧ exec p.instr s = .next u ∧
      t = { u with hrdata := w }) := by
  rcases exec_next_cases h with hreset | hstart | ⟨p, hi, hu⟩ | ⟨p, u, hp, hu, rfl | ⟨w, rfl⟩⟩
  · exact .inl hreset
  · exact .inr (.inl hstart)
  · exact .inr (.inr ⟨p, t, t.hrdata, .inl hi, hu, rfl⟩)
  · exact .inr (.inr ⟨p, t, t.hrdata, .inr hp, hu, rfl⟩)
  · exact .inr (.inr ⟨p, u, some w, .inr hp, hu, rfl⟩)

theorem startValue_eq_some {i : Instr} {v : Word} (h : startValue i = some v) :
    (i = .readDht11 ∧ v = 11#32) ∨ (i = .readDht22 ∧ v = 22#32) ∨ (i = .readAm2302 ∧ v = 2302#32) ∨ i = .readOther v := by
  cases i <;> simp_all [startValue]

/-! ### What a phase rule writes -/

/-- What the rule of the phase `p` leaves as it was: TYPE in every phase, and the registers that belong to another phase
(R14 to R19). -/
structure KeepsForeignRegisters (p : Phase) (s t : State) : Prop where
  stype : t.stype = s.stype
  reading : p ≠ .interpret → t.hum = s.hum ∧ t.temp = s.temp
  endc : p ≠ .capture → t.endc = s.endc
  frame : p ≠ .extract → t.frame = s.frame ∧ t.bitcnt = s.bitcnt

/-- A rule that writes only its counters, the flags and `phase`. -/
theorem KeepsForeignRegisters.of_all_kept {p : Phase} {s t : State} (hstype : t.stype = s.stype)
    (hhum : t.hum = s.hum) (htemp : t.temp = s.temp) (hendc : t.endc = s.endc) (hframe : t.frame = s.frame)
    (hbitcnt : t.bitcnt = s.bitcnt) : KeepsForeignRegisters p s t :=
  ⟨hstype, fun _ => ⟨hhum, htemp⟩, fun _ => hendc, fun _ => ⟨hframe, hbitcnt⟩⟩

theorem pulseGoesOn_keeps (s : State) : KeepsForeignRegisters .capture s s.pulseGoesOn := by
  unfold State.pulseGoesOn
  split <;> exact ⟨rfl, fun _ => ⟨rfl, rfl⟩, fun h => absurd rfl h, fun _ => ⟨rfl, rfl⟩⟩

theorem pulseEnds_keeps (s : State) : KeepsForeignRegisters .capture s s.pulseEnds := by
  unfold State.pulseEnds
  split <;> exact ⟨rfl, fun _ => ⟨rfl, rfl⟩, fun h => absurd rfl h, fun _ => ⟨rfl, rfl⟩⟩

theorem phaseInstr_keepsForeignRegisters {p : Phase} {s t : State} (h : exec p.instr s = .next t) :
    KeepsForeignRegisters p s t := by
  rcases phaseInstr_next_cases h with ⟨-, rfl⟩ | ⟨-, rfl⟩ | ⟨-, rfl⟩ | ⟨-, rfl⟩ | ⟨rfl, -, rfl⟩ | ⟨rfl, -, rfl⟩ | ⟨-, rfl⟩ |
    ⟨rfl, ⟨k, -, rfl⟩ | ⟨-, rfl⟩⟩
  · exact .of_all_kept rfl rfl rfl rfl rfl rfl
  · split <;> exact .of_all_kept rfl rfl rfl rfl rfl rfl
  · split <;> exact .of_all_kept rfl rfl rfl rfl rfl rfl
  · repeat' split
    all_goals exact .of_all_kept rfl rfl rfl rfl rfl rfl
  · split
    · exact pulseGoesOn_keeps s
    · exact pulseEnds_keeps s
  · split <;> exact ⟨rfl, fun _ => ⟨rfl, rfl⟩, fun _ => rfl, fun h => absurd rfl h⟩
  · split <;> exact .of_all_kept rfl rfl rfl rfl rfl rfl
  · exact ⟨rfl, fun h => absurd rfl h, fun _ => rfl, fun _ => ⟨rfl, rfl⟩⟩
  · exact .of_all_kept rfl rfl rfl rfl rfl rfl

/-- INTERPRET writes the reading only where it succeeds (R165, R168). -/
theorem execPhInterpret_reading {s t : State} (h : execPhInterpret s = .next t) :
    (t.hum = s.hum ∧ t.temp = s.temp) ∨
      (t.valid = true ∧ t.done = true ∧ t.err = 0#3 ∧ t.phase = Phase.idle.code) := by
  simp only [execPhInterpret, Host.Outcome.next.injEq] at h
  subst h
  split
  · exact .inr ⟨rfl, rfl, rfl, rfl⟩
  · exact .inl ⟨rfl, rfl⟩

/-! ### Which phase follows -/

/-- The successors of each phase in R13's table. -/
def successors : Phase → List Phase
  | .idle => [.idle]
  | .wakeHigh => [.wakeHigh, .wakeLow]
  | .wakeLow => [.wakeLow, .waitResp]
  | .waitResp => [.waitResp, .capture, .idle]
  | .capture => [.capture, .extract]
  | .extract => [.check, .idle]
  | .check => [.interpret, .idle]
  | .interpret => [.idle]

theorem pulseGoesOn_phase (s : State) : s.pulseGoesOn.phase = s.phase ∨ s.pulseGoesOn.phase = Phase.extract.code := by
  unfold State.pulseGoesOn
  split
  · exact .inr rfl
  · exact .inl rfl

theorem pulseEnds_phase (s : State) : s.pulseEnds.phase = s.phase ∨ s.pulseEnds.phase = Phase.extract.code := by
  unfold State.pulseEnds
  split
  · exact .inr rfl
  · exact .inl rfl

/-- The rule of the phase in `phase` leads to one of its successors. -/
theorem phaseRule_successor {p : Phase} {s t : State} (hp : s.phase = p.code) (h : exec p.instr s = .next t) :
    ∃ q ∈ successors p, t.phase = q.code := by
  rcases phaseInstr_next_cases h with ⟨rfl, rfl⟩ | ⟨rfl, rfl⟩ | ⟨rfl, rfl⟩ | ⟨rfl, rfl⟩ | ⟨rfl, -, ht⟩ | ⟨rfl, -, rfl⟩ |
    ⟨rfl, rfl⟩ | ⟨rfl, ⟨k, -, rfl⟩ | ⟨-, rfl⟩⟩
  · exact ⟨.idle, by decide, hp⟩
  · split
    · exact ⟨.wakeLow, by decide, rfl⟩
    · exact ⟨.wakeHigh, by decide, hp⟩
  · split
    · exact ⟨.waitResp, by decide, rfl⟩
    · exact ⟨.wakeLow, by decide, hp⟩
  · split
    · exact ⟨.capture, by decide, rfl⟩
    · split
      · exact ⟨.idle, by decide, rfl⟩
      · exact ⟨.waitResp, by decide, hp⟩
  · have hphase : t.phase = s.phase ∨ t.phase = Phase.extract.code := by
      rw [ht]
      split
      · exact pulseGoesOn_phase s
      · exact pulseEnds_phase s
    rcases hphase with hstay | hend
    · exact ⟨.capture, by decide, hstay.trans hp⟩
    · exact ⟨.extract, by decide, hend⟩
  · split
    · exact ⟨.idle, by decide, rfl⟩
    · exact ⟨.check, by decide, rfl⟩
  · split
    · exact ⟨.interpret, by decide, rfl⟩
    · exact ⟨.idle, by decide, rfl⟩
  · exact ⟨.idle, by decide, rfl⟩
  · exact ⟨.idle, by decide, rfl⟩

/-! ### Where the buffer has no entry -/

theorem execPhCapture_fault {s : State} (hl : s.lin ≠ s.last) (hn : s.samples.length ≤ s.n) :
    execPhCapture s = .fault (.sampleIndexOutOfRange s.n) :=
  if_neg fun h => h.elim hn.not_gt hl

theorem execPhExtract_fault {s : State} (hn : s.samples.length < s.n) :
    execPhExtract s = .fault (.sampleIndexOutOfRange s.samples.length) :=
  if_neg hn.not_ge

end Machine

open Machine

/-- Settles O37: a NOP runs the rule of the phase, and the codes of R13 name its successors. -/
theorem phaseSuccessors : Obligations.PhaseSuccessors := by
  intro s t h
  obtain ⟨p, hp, hu⟩ := phaseStep_next_cases h
  obtain ⟨q, hq, ht⟩ := phaseRule_successor hp hu
  rw [hp, ht]
  clear hp hu ht
  revert q
  cases p <;> decide

/-- Settles O42: of the phase rules only INTERPRET writes the reading, and a START keeps it. -/
theorem readingIsWrittenOnlyOnSuccess : Obligations.ReadingIsWrittenOnlyOnSuccess := by
  intro i s t h hne
  rcases exec_next_rule_cases h with ⟨rfl, -⟩ | ⟨v, -, -, rfl⟩ | ⟨p, u, w, hrun, hu, rfl⟩
  · exact .inl rfl
  · simp at hne
  · have hchanged : ¬ (u.hum = s.hum ∧ u.temp = s.temp) := fun hk => hne.elim (absurd hk.1) (absurd hk.2)
    obtain rfl : p = .interpret := by
      by_contra hp
      exact hchanged ((phaseInstr_keepsForeignRegisters hu).reading hp)
    exact .inr ⟨hrun, (execPhInterpret_reading hu).resolve_left hchanged⟩

/-- Settles O43: no phase rule writes TYPE. -/
theorem typeIsWrittenOnlyByStart : Obligations.TypeIsWrittenOnlyByStart := by
  intro i s t h hne
  rcases exec_next_rule_cases h with ⟨rfl, -⟩ | ⟨v, hv, hidle, rfl⟩ | ⟨p, u, w, -, hu, rfl⟩
  · exact .inl rfl
  · exact .inr ⟨hidle, rfl, startValue_eq_some hv⟩
  · exact absurd (phaseInstr_keepsForeignRegisters hu).stype hne

/-- Settles O44: of the phase rules only CAPTURE writes ENDC, and only EXTRACT the frame and its bit count. -/
theorem captureFlagAndFrameWriters : Obligations.CaptureFlagAndFrameWriters := by
  intro i s t h hreset hstart
  rcases exec_next_rule_cases h with ⟨rfl, -⟩ | ⟨v, -, hidle, rfl⟩ | ⟨p, u, w, hrun, hu, rfl⟩
  · exact absurd rfl hreset
  · exact absurd ⟨hidle, rfl⟩ hstart
  · have hkeeps := phaseInstr_keepsForeignRegisters hu
    constructor
    · intro hendc
      obtain rfl : p = .capture := by
        by_contra hp
        exact hendc (hkeeps.endc hp)
      exact hrun
    · intro hframe
      obtain rfl : p = .extract := by
        by_contra hp
        exact hframe.elim (absurd (hkeeps.frame hp).1) (absurd (hkeeps.frame hp).2)
      exact hrun

/-- Settles O4: without reset and host operation the tick is a NOP, which runs the instruction of the phase. -/
theorem stepRunsTheDecodedInstruction : Obligations.StepRunsTheDecodedInstruction := by
  refine ⟨fun _ _ => step_of_fetch, fun s i hrst hhop hi => ?_, fun s => ?_⟩
  · obtain ⟨p, hp, rfl⟩ := (decodePhase_ok_iff s.phase i).1 hi
    have hnop : fetch s = .ok .nop := by rw [fetch, hrst, hhop]; rfl
    rw [step_of_fetch hnop]
    exact phaseStep_of_code hp
  · rw [← level_eq_levelAt]
    rfl

/-- Settles O25: the faults are the rules' other branches, and a state with the invariant is operable. -/
theorem missingBufferEntriesFault : Obligations.MissingBufferEntriesFault := by
  refine ⟨fun _ => execPhCapture_fault, fun _ => execPhExtract_fault, fun s h => ?_⟩
  have hact := phaseStep_of_operable (operable_of_stateInv h)
  exact ⟨fun hp => by rwa [phaseStep_of_code (p := .capture) hp] at hact,
    fun hp => by rwa [phaseStep_of_code (p := .extract) hp] at hact⟩

/-- Settles O36: the outputs are tests on the phase and its flags. -/
theorem outputsFollowThePhase : Obligations.OutputsFollowThePhase := by
  intro s
  refine ⟨decide_eq_true_iff, ?_, by simp [State.outputs, State.busy], rfl, rfl⟩
  by_cases h : s.phase = 1#4 <;> simp [State.outputs, h]

end Sys2Proof
end

section
/-! The host's accesses, the sample buffer and the line (20_memory.md R41, R42, R46, R57, R58). -/

namespace Sys2Proof

/-! ### Which accesses are reserved -/

/-- The offsets of the five registers (R42). -/
abbrev registerOffsets : List Word := [0x00#32, 0x04#32, 0x08#32, 0x0C#32, 0x10#32]

theorem registerOffset_aligned {off : Word} (h : off ∈ registerOffsets) : off.toNat % 4 = 0 :=
  known_offset_aligned (by simpa using h)

theorem exists_decodeRead_ok_iff (off : Word) : (∃ i, decodeRead off = .ok i) ↔ off ∈ registerOffsets := by
  simp [decodeRead_ok_iff, exists_or]

theorem exists_decodeWrite_ok_iff (off v : Word) : (∃ i, decodeWrite off v = .ok i) ↔ off ∈ registerOffsets := by
  simp [decodeWrite_ok_iff, exists_or]

theorem exists_decodeHop_read_ok_iff (off : Word) (size : Nat) : (∃ i, decodeHop (.read off size) = .ok i) ↔
    size = 4 ∧ off.toNat % 4 = 0 ∧ off ∈ registerOffsets := by
  constructor
  · rintro ⟨i, hd⟩
    rcases decodeHop_ok_cases hd with ⟨hop, -⟩ | ⟨_, hop, hi⟩ | ⟨_, _, hop, -⟩ <;> cases hop
    have hoff := (exists_decodeRead_ok_iff off).1 ⟨i, hi⟩
    exact ⟨rfl, registerOffset_aligned hoff, hoff⟩
  · rintro ⟨rfl, -, hoff⟩
    obtain ⟨i, hi⟩ := (exists_decodeRead_ok_iff off).2 hoff
    exact ⟨i, decodeHop_read_known hi⟩

theorem exists_decodeHop_write_ok_iff (off : Word) (size : Nat) (v : Word) :
    (∃ i, decodeHop (.write off size v) = .ok i) ↔ size = 4 ∧ off.toNat % 4 = 0 ∧ off ∈ registerOffsets := by
  constructor
  · rintro ⟨i, hd⟩
    rcases decodeHop_ok_cases hd with ⟨hop, -⟩ | ⟨_, hop, -⟩ | ⟨_, _, hop, hi⟩ <;> cases hop
    have hoff := (exists_decodeWrite_ok_iff off v).1 ⟨i, hi⟩
    exact ⟨rfl, registerOffset_aligned hoff, hoff⟩
  · rintro ⟨rfl, -, hoff⟩
    obtain ⟨i, hi⟩ := (exists_decodeWrite_ok_iff off v).2 hoff
    exact ⟨i, decodeHop_write_known hi⟩

namespace Machine

/-- No instruction refuses, so a tick is refused exactly when its host side does not decode. -/
theorem step_reservedAccess_iff (s : State) :
    (∃ why, step s = .refused (.reservedAccess why)) ↔ ¬ ∃ i, fetch s = .ok i := by
  cases hf : fetch s with
  | ok i => simp [step_of_fetch hf, exec_never_refuses]
  | error why => simp [step, hf]

theorem fetch_of_no_reset {s : State} (h : s.inputs.rst = false) : fetch s = decodeHop s.inputs.hop := by
  rw [fetch, h, decode]

/-! ### Which rule an instruction runs -/

/-- `exec_next_cases` with the phase rule named as `RunsRule` names it: the rule in `phase` acts only where the instruction is
not a phase instruction itself. -/
theorem exec_next_runsRule_cases {i : Instr} {s t : State} (h : exec i s = .next t) :
    (i = .reset ∧ t = s.toReset) ∨
    (∃ v, startValue i = some v ∧ s.phase = Phase.idle.code ∧ t = s.start v) ∨
    (∃ (p : Phase) (u : State) (w : Option Word), RunsRule p i s ∧ exec p.instr s = .next u ∧
      t = { u with hrdata := w }) := by
  by_cases hphase : ∃ q : Phase, i = q.instr
  · obtain ⟨q, rfl⟩ := hphase
    exact .inr (.inr ⟨q, t, t.hrdata, .inl rfl, h, rfl⟩)
  by_cases hreset : i = .reset
  · subst hreset
    exact .inl ⟨rfl, by simpa [exec, execReset] using h.symm⟩
  rcases exec_next_rule_cases h with ⟨hi, -⟩ | hstart | ⟨p, u, w, hi | hp, hu, ht⟩
  · exact absurd hi hreset
  · exact .inr (.inl hstart)
  · exact absurd ⟨p, hi⟩ hphase
  · exact .inr (.inr ⟨p, u, w, .inr ⟨hp, hreset, not_exists.1 hphase⟩, hu, ht⟩)

theorem instr_injective : Function.Injective Phase.instr := by
  intro p q
  cases p <;> cases q <;> simp [Phase.instr]

/-- An instruction runs at most one phase rule. -/
theorem RunsRule.unique {p q : Phase} {i : Instr} {s : State} (hp : RunsRule p i s) (hq : RunsRule q i s) : p = q := by
  rcases hp with rfl | ⟨hp, -, hpi⟩ <;> rcases hq with hqi | ⟨hq, -, hqi⟩
  · exact instr_injective hqi
  · exact absurd rfl (hqi p)
  · exact absurd hqi (hpi q)
  · exact (code_inj p q).1 (hp.symm.trans hq)

/-- A tick that accepts a START runs no rule but that of IDLE. -/
theorem RunsRule.idle_of_start {p : Phase} {i : Instr} {v : Word} {s : State} (h : RunsRule p i s)
    (hv : startValue i = some v) (hidle : s.phase = Phase.idle.code) : p = .idle := by
  rcases h with rfl | ⟨hp, -, -⟩
  · cases p <;> simp [Phase.instr, startValue] at hv
  · exact (code_inj p .idle).1 (hp.symm.trans hidle)

/-! ### Who writes the sample buffer -/

@[simp] theorem pulseGoesOn_samples (s : State) : s.pulseGoesOn.samples = s.samples := by
  unfold State.pulseGoesOn
  split <;> rfl

@[simp] theorem pulseEnds_samples (s : State) : s.pulseEnds.samples = s.samples.set s.n ⟨s.last, s.cnt⟩ := by
  unfold State.pulseEnds
  split <;> rfl

/-- CAPTURE records nothing, or stores the pulse at an entry the buffer has (R46, R125). -/
theorem execPhCapture_samples {s t : State} (h : execPhCapture s = .next t) :
    (s.recordIndex = none ∧ t.samples = s.samples) ∨
    (s.recordIndex = some s.n ∧ s.n < s.samples.length ∧ t.samples = s.samples.set s.n ⟨s.last, s.cnt⟩) := by
  obtain ⟨hroom, rfl⟩ := execPhCapture_eq_next.1 h
  unfold State.recordIndex
  by_cases hl : s.lin = s.last
  · simp [hl]
  · simpa [hl] using hroom

/-- The frame of CAPTURE: the entry `State.recordIndex` gives holds the pulse, every other is as it was. -/
theorem execPhCapture_entry {s t : State} (h : execPhCapture s = .next t) (j : Nat) :
    (s.recordIndex ≠ some j → t.samples[j]? = s.samples[j]?) ∧
      (s.recordIndex = some j → t.samples[j]? = some ⟨s.last, s.cnt⟩) := by
  rcases execPhCapture_samples h with ⟨hi, hs⟩ | ⟨hi, hn, hs⟩
  · simp [hi, hs]
  · rw [hi, hs]
    refine ⟨fun hj => List.getElem?_set_ne fun hnj => hj (congrArg some hnj), fun hj => ?_⟩
    cases hj
    exact List.getElem?_set_self hn

theorem phaseInstr_keeps_samples {p : Phase} {s t : State} (hp : p ≠ .capture) (h : exec p.instr s = .next t) :
    t.samples = s.samples := by
  rcases phaseInstr_next_cases h with ⟨-, rfl⟩ | ⟨-, rfl⟩ | ⟨-, rfl⟩ | ⟨-, rfl⟩ | ⟨hc, -⟩ | ⟨-, -, rfl⟩ | ⟨-, rfl⟩ |
    ⟨-, ⟨k, -, rfl⟩ | ⟨-, rfl⟩⟩
  · rfl
  · split <;> rfl
  · split <;> rfl
  · repeat' split
    all_goals rfl
  · exact absurd hc hp
  · split <;> rfl
  · split <;> rfl
  · rfl
  · rfl

/-! ### Where the line does not matter -/

/-- The state with another level of the line sampled (R30). -/
def State.withLin (l : Level) (s : State) : State := { s with lin := l }

theorem State.withLin_stype (l : Level) (s : State) : (s.withLin l).stype = s.stype := rfl

/-- On `s` the answer of `f` depends on the sampled level nowhere but in the field that holds it. -/
def IgnoresLine (f : State → Result) (s : State) : Prop := ∀ l, f (s.withLin l) = mapNext (State.withLin l) (f s)

/-- Another level reaches the answer of a rule through both branches of its test. -/
theorem mapNext_withLin_ite {c : Prop} [Decidable c] (l : Level) (t u : State) :
    mapNext (State.withLin l) (.next (if c then t else u)) = .next (if c then t.withLin l else u.withLin l) := by
  split <;> rfl

theorem phaseInstr_ignoresLine {p : Phase} (hw : p ≠ .waitResp) (hc : p ≠ .capture) (s : State) :
    IgnoresLine (exec p.instr) s := by
  intro l
  cases p with
  | idle => rfl
  | wakeHigh | wakeLow | check =>
    refine .trans ?_ (mapNext_withLin_ite l _ _).symm
    rfl
  | waitResp => exact absurd rfl hw
  | capture => exact absurd rfl hc
  | extract =>
    change execPhExtract _ = mapNext _ (execPhExtract _)
    by_cases hn : s.n ≤ s.samples.length
    · rw [execPhExtract, execPhExtract, if_pos hn]
      refine (if_pos hn).trans (.trans ?_ (mapNext_withLin_ite l _ _).symm)
      rfl
    · rw [execPhExtract_fault (not_le.1 hn)]
      exact execPhExtract_fault (not_le.1 hn)
  | interpret =>
    change execPhInterpret _ = mapNext _ (execPhInterpret _)
    rw [execPhInterpret, execPhInterpret, State.withLin_stype]
    cases sensorKind s.stype <;> rfl

section
variable {s : State} (hw : s.phase ≠ Phase.waitResp.code) (hc : s.phase ≠ Phase.capture.code)
include hw hc

theorem phaseStep_ignoresLine : IgnoresLine phaseStep s := by
  intro l
  by_cases hlegal : s.phase.toNat < 8
  · obtain ⟨p, hp⟩ := legal_phase_is_named hlegal
    rw [phaseStep_of_code hp, phaseStep_of_code (s := s.withLin l) hp]
    exact phaseInstr_ignoresLine (fun h => hw (h ▸ hp)) (fun h => hc (h ▸ hp)) s l
  · rw [phaseStep_stuck (not_lt.1 hlegal)]
    exact phaseStep_stuck (not_lt.1 hlegal)

theorem startTick_ignoresLine (v : Word) : IgnoresLine (startTick v) s := by
  intro l
  by_cases hidle : s.phase = Phase.idle.code
  · rw [startTick, startTick, if_pos hidle]
    exact if_pos hidle
  · rw [startTick, startTick, if_neg hidle]
    exact (if_neg hidle).trans (phaseStep_ignoresLine hw hc l)

/-- The words a host reads are registers, and the level of the line is none. -/
theorem readTick_ignoresLine {word : State → Word} (hword : ∀ l, word (s.withLin l) = word s) :
    IgnoresLine (readTick word) s := by
  intro l
  rw [readTick, readTick, phaseStep_ignoresLine hw hc l, hword]
  cases phaseStep s <;> rfl

theorem exec_ignoresLine {i : Instr} (hiw : i ≠ .phWaitResp) (hic : i ≠ .phCapture) : IgnoresLine (exec i) s := by
  cases i with
  | readDht11 | readDht22 | readAm2302 | readOther => exact startTick_ignoresLine hw hc _
  | rdCmd | rdStatus | rdHum | rdTemp | rdType => exact readTick_ignoresLine hw hc fun _ => rfl
  | wrStatus | wrHum | wrTemp | wrType | nop => exact phaseStep_ignoresLine hw hc
  | reset => exact fun _ => rfl
  | phIdle => exact phaseInstr_ignoresLine (p := .idle) nofun nofun s
  | phWakeHigh => exact phaseInstr_ignoresLine (p := .wakeHigh) nofun nofun s
  | phWakeLow => exact phaseInstr_ignoresLine (p := .wakeLow) nofun nofun s
  | phWaitResp => exact absurd rfl hiw
  | phCapture => exact absurd rfl hic
  | phExtract => exact phaseInstr_ignoresLine (p := .extract) nofun nofun s
  | phCheck => exact phaseInstr_ignoresLine (p := .check) nofun nofun s
  | phInterpret => exact phaseInstr_ignoresLine (p := .interpret) nofun nofun s

end

end Machine

open Machine

/-- Settles O26: of the phase rules only CAPTURE writes the buffer, and an accepted START keeps it. -/
theorem sampleBufferFrame : Obligations.SampleBufferFrame := by
  intro i s t h hreset
  rcases exec_next_runsRule_cases h with ⟨rfl, -⟩ | ⟨v, hv, hidle, rfl⟩ | ⟨p, u, w, hrun, hu, rfl⟩
  · exact absurd rfl hreset
  · exact ⟨fun hcapture => absurd (hcapture.idle_of_start hv hidle) nofun, fun _ _ => rfl⟩
  · constructor
    · intro hcapture
      obtain rfl := hrun.unique hcapture
      exact fun j => execPhCapture_entry (t := u) hu j
    · intro hother j
      have hp : p ≠ .capture := fun hp => hother (hp ▸ hrun)
      exact congrArg (·[j]?) (phaseInstr_keeps_samples (t := u) hp hu)

/-- Settles O38: the tests of every other rule, and the words read, are of registers. -/
theorem lineIsIgnoredOutsideWaitAndCapture : Obligations.LineIsIgnoredOutsideWaitAndCapture := by
  intro i s t l hw hc hiw hic h
  have hline := exec_ignoresLine hw hc hiw hic l
  rwa [h] at hline

/-- Settles O5: the refused ticks are those that do not decode, and the accesses that decode are known. -/
theorem reservedAccessesAreRefused : Obligations.ReservedAccessesAreRefused := by
  refine ⟨fun s off size hrst hhop => ?_, fun s off size v hrst hhop => ?_⟩
  · rw [step_reservedAccess_iff, fetch_of_no_reset hrst, hhop, exists_decodeHop_read_ok_iff]
  · rw [step_reservedAccess_iff, fetch_of_no_reset hrst, hhop, exists_decodeHop_write_ok_iff]

end Sys2Proof
end

section
/-! The encodings: the decoder and the encoder, the opcode table, the STATUS word, a reading in the host's hands, the stored
form of a sample, and the unused phase codes (30_encoding.md). -/

namespace Sys2Proof

/-! ### The encoder is the decoder's inverse -/

theorem wellFormed_readOther_iff (v : Word) :
    (Instr.readOther v).wellFormed = true ↔ v ≠ 11#32 ∧ v ≠ 22#32 ∧ v ≠ 2302#32 := by
  simp [Instr.wellFormed, and_assoc]

theorem decodeCommand_of_wellFormed {v : Word} (h : (Instr.readOther v).wellFormed = true) :
    decodeCommand v = .readOther v := by
  obtain ⟨h11, h22, h2302⟩ := (wellFormed_readOther_iff v).1 h
  rw [decodeCommand, if_neg h11, if_neg h22, if_neg h2302]

theorem decode_encode {i : Instr} (h : i.wellFormed = true) : decode (encode i) = .ok i := by
  cases i with
  | readOther v =>
    refine decodeHop_write_known ((decodeWrite_ok_iff _ v _).2 (.inl ⟨rfl, ?_⟩))
    exact (decodeCommand_of_wellFormed h).symm
  | readDht11 | readDht22 | readAm2302 | rdCmd | rdStatus | rdHum | rdTemp | rdType => rfl
  | wrStatus | wrHum | wrTemp | wrType | reset | nop => rfl
  | phIdle | phWakeHigh | phWakeLow | phWaitResp | phCapture | phExtract | phCheck | phInterpret => rfl

/-- `i` stands for a word of the table, and `c` is its encoding. -/
abbrev Encodes (i : Instr) (c : Code) : Prop := i.wellFormed = true ∧ encode i = c

theorem decodeCommand_encodes (v : Word) : Encodes (decodeCommand v) (.tick false (.write 0x00#32 4 v)) := by
  rcases decodeCommand_cases v with ⟨rfl, hc⟩ | ⟨rfl, hc⟩ | ⟨rfl, hc⟩ | ⟨h11, h22, h2302, hc⟩ <;> rw [hc]
  · exact ⟨rfl, rfl⟩
  · exact ⟨rfl, rfl⟩
  · exact ⟨rfl, rfl⟩
  · exact ⟨(wellFormed_readOther_iff v).2 ⟨h11, h22, h2302⟩, rfl⟩

theorem decodeRead_encodes {off : Word} {i : Instr} (h : decodeRead off = .ok i) :
    Encodes i (.tick false (.read off 4)) := by
  rcases (decodeRead_ok_iff off i).1 h with ⟨rfl, rfl⟩ | ⟨rfl, rfl⟩ | ⟨rfl, rfl⟩ | ⟨rfl, rfl⟩ | ⟨rfl, rfl⟩ <;>
    exact ⟨rfl, rfl⟩

theorem decodeWrite_encodes {off v : Word} {i : Instr} (h : decodeWrite off v = .ok i) :
    Encodes i (.tick false (.write off 4 v)) := by
  rcases (decodeWrite_ok_iff off v i).1 h with ⟨rfl, rfl⟩ | ⟨rfl, rfl⟩ | ⟨rfl, rfl⟩ | ⟨rfl, rfl⟩ | ⟨rfl, rfl⟩
  · exact decodeCommand_encodes v
  all_goals exact ⟨rfl, rfl⟩

theorem phaseInstr_encodes (p : Phase) : Encodes p.instr (.phase p.code) := by
  cases p <;> exact ⟨rfl, rfl⟩

/-- A code that decodes is a tick with reset, whose host operation is ignored (R210), or the encoding of what it decodes
to. -/
theorem decode_ok_cases {c : Code} {i : Instr} (h : decode c = .ok i) :
    (∃ hop, c = .tick true hop ∧ i = .reset) ∨ Encodes i c := by
  match c, h with
  | .tick true hop, h =>
    cases h
    exact .inl ⟨hop, rfl, rfl⟩
  | .tick false hop, h =>
    rcases decodeHop_ok_cases h with ⟨rfl, rfl⟩ | ⟨off, rfl, hd⟩ | ⟨off, v, rfl, hd⟩
    · exact .inr ⟨rfl, rfl⟩
    · exact .inr (decodeRead_encodes hd)
    · exact .inr (decodeWrite_encodes hd)
  | .phase code, h =>
    obtain ⟨p, rfl, rfl⟩ := (decodePhase_ok_iff code i).1 h
    exact .inr (phaseInstr_encodes p)

/-- Settles O2: each class of codes has its own encodings. -/
theorem decodeAndEncodeAgree : Obligations.DecodeAndEncodeAgree := by
  refine ⟨fun _ => decode_encode, fun c i h => ?_⟩
  rcases decode_ok_cases h with ⟨hop, -, rfl⟩ | ⟨hwf, henc⟩
  · exact ⟨rfl, absurd rfl⟩
  · exact ⟨hwf, fun _ => henc⟩

/-! ### The opcode table -/

/-- The table's row of a well-formed instruction, from the family `Laws.Selects`. -/
theorem lookupRow_encode {i : Instr} (h : i.wellFormed = true) :
    lookupRow (encode i).selector.1 (encode i).selector.2 = some i.mnemonic := by
  cases i with
  | readOther v => exact Laws.Selects.readOther v h
  | wrStatus v => exact Laws.Selects.wrStatus v h
  | wrHum v => exact Laws.Selects.wrHum v h
  | wrTemp v => exact Laws.Selects.wrTemp v h
  | wrType v => exact Laws.Selects.wrType v h
  | readDht11 | readDht22 | readAm2302 | rdCmd | rdStatus | rdHum | rdTemp | rdType | reset | nop => rfl
  | phIdle | phWakeHigh | phWakeLow | phWaitResp | phCapture | phExtract | phCheck | phInterpret => rfl

/-- With reset the host operation selects nothing (R210). -/
theorem selector_of_reset (hop : HostOp) : (Code.tick true hop).selector = (.pin, 1) := by
  cases hop <;> rfl

theorem lookupRow_of_decode {c : Code} {i : Instr} (h : decode c = .ok i) :
    lookupRow c.selector.1 c.selector.2 = some i.mnemonic := by
  rcases decode_ok_cases h with ⟨hop, rfl, rfl⟩ | ⟨hwf, rfl⟩
  · rw [selector_of_reset]
    rfl
  · exact lookupRow_encode hwf

/-- The full mask compares all 32 bits. -/
theorem word_and_full_mask (v : Word) : v.toNat &&& 0xFFFFFFFF = v.toNat :=
  Nat.and_two_pow_sub_one_of_lt_two_pow v.isLt

/-- Class CMDW has a row for every value: `READ.OTHER` has no fixed bit. -/
theorem lookupRow_cmdw_ne_none (x : Nat) : lookupRow .cmdw x ≠ none := by
  simp [lookupRow, opcodeTable]

theorem lookupRow_read_eq_none_iff (off : Word) : lookupRow .regr off.toNat = none ↔ off ∉ registerOffsets := by
  simp [lookupRow, opcodeTable, word_and_full_mask, BitVec.toNat_eq]

/-- Of the five offsets written, the first belongs to class CMDW and the others to REGW. -/
theorem lookupRow_write_eq_none_iff (off v : Word) (size : Nat) :
    lookupRow (Code.tick false (.write off size v)).selector.1 (Code.tick false (.write off size v)).selector.2 = none ↔
      off ∉ registerOffsets := by
  by_cases h : off = 0#32
  · simp [Code.selector, h, lookupRow_cmdw_ne_none]
  · simp [Code.selector, h, lookupRow, opcodeTable, word_and_full_mask, BitVec.toNat_eq]

theorem lookupRow_reset_ne_none : lookupRow .pin 1 ≠ none := by decide

theorem lookupRow_nop_ne_none : lookupRow .pin 0 ≠ none := by decide

theorem lookupRow_phase_eq_none_iff (code : BitVec 4) : lookupRow .phase code.toNat = none ↔ phaseOf code = none := by
  revert code
  decide

theorem exists_error_iff {ε α : Type} (x : Except ε α) : (∃ e, x = .error e) ↔ ¬ ∃ a, x = .ok a := by
  cases x <;> simp

theorem exists_decodePhase_ok_iff (code : BitVec 4) : (∃ i, decodePhase code = .ok i) ↔ phaseOf code ≠ none := by
  unfold decodePhase
  cases phaseOf code <;> simp

/-- The code is a host access, without reset, of another size than 4 or at an offset that is not a multiple of 4 (R41). -/
def IsMalformedAccess (c : Code) : Prop :=
  ∃ (off : Word) (size : Nat), (c = .tick false (.read off size) ∨ ∃ v, c = .tick false (.write off size v)) ∧
    (size ≠ 4 ∨ off.toNat % 4 ≠ 0)

theorem isMalformedAccess_read_iff (off : Word) (size : Nat) :
    IsMalformedAccess (.tick false (.read off size)) ↔ ¬ (size = 4 ∧ off.toNat % 4 = 0) := by
  simp [IsMalformedAccess, imp_iff_not_or]

theorem isMalformedAccess_write_iff (off v : Word) (size : Nat) :
    IsMalformedAccess (.tick false (.write off size v)) ↔ ¬ (size = 4 ∧ off.toNat % 4 = 0) := by
  simp [IsMalformedAccess, imp_iff_not_or]

theorem decode_error_iff (c : Code) :
    (∃ e, decode c = .error e) ↔ IsMalformedAccess c ∨ lookupRow c.selector.1 c.selector.2 = none := by
  rw [exists_error_iff]
  match c with
  | .tick true hop =>
    simp [decode, selector_of_reset, IsMalformedAccess, lookupRow_reset_ne_none]
  | .tick false .none =>
    simp [decode, decodeHop, Code.selector, IsMalformedAccess, lookupRow_nop_ne_none]
  | .tick false (.read off size) =>
    rw [decode, exists_decodeHop_read_ok_iff, isMalformedAccess_read_iff, ← and_assoc, not_and_or]
    exact or_congr_right (lookupRow_read_eq_none_iff off).symm
  | .tick false (.write off size v) =>
    rw [decode, exists_decodeHop_write_ok_iff, isMalformedAccess_write_iff, lookupRow_write_eq_none_iff, ← and_assoc,
      not_and_or]
  | .phase code =>
    rw [decode, exists_decodePhase_ok_iff, not_not, ← lookupRow_phase_eq_none_iff]
    simp [Code.selector, IsMalformedAccess]

/-- Settles O3: class by class, the codes that decode are known, and so are those a row selects. -/
theorem decodingFollowsTheTable : Obligations.DecodingFollowsTheTable :=
  ⟨fun _ _ => lookupRow_of_decode, decode_error_iff⟩

namespace Machine

/-! ### The STATUS word -/

theorem flagWord_getLsbD (b : Bool) (i : Nat) : (flagWord b).getLsbD i = (decide (i = 0) && b) := by
  cases b <;> simp [flagWord]

/-- The layout of R65, bit by bit. -/
theorem statusWord_getElem (s : State) {i : Nat} (hi : i < 32) : (statusWord s)[i] =
    if i = 0 then s.busy else if i = 1 then s.done else if i = 2 then s.valid else if i = 3 then false
    else if i < 7 then s.err.getLsbD (i - 4) else if i = 7 then s.endc
    else if i < 14 then s.bitcnt.getLsbD (i - 8) else if i < 16 then false
    else s.phase.getLsbD (i - 16) := by
  rw [← BitVec.getLsbD_eq_getElem hi, statusWord]
  simp only [BitVec.getLsbD_or, BitVec.getLsbD_shiftLeft, BitVec.getLsbD_setWidth, flagWord_getLsbD]
  interval_cases i <;> simp

/-- A field of the STATUS word is known from its bits. -/
theorem statusWord_field {s : State} {start width : Nat} {x : BitVec width}
    (h : ∀ j < width, (statusWord s).getLsbD (start + j) = x.getLsbD j) : (statusWord s).extractLsb' start width = x :=
  BitVec.eq_of_getLsbD_eq fun j hj => by simpa [hj] using h j hj

theorem statusWord_err (s : State) : (statusWord s).extractLsb' 4 3 = s.err :=
  statusWord_field fun j hj => by interval_cases j <;> simp [statusWord_getElem]

theorem statusWord_bitcnt (s : State) : (statusWord s).extractLsb' 8 6 = s.bitcnt :=
  statusWord_field fun j hj => by interval_cases j <;> simp [statusWord_getElem]

theorem statusWord_phase (s : State) : (statusWord s).extractLsb' 16 4 = s.phase :=
  statusWord_field fun j hj => by interval_cases j <;> simp [statusWord_getElem]

theorem statusWord_above_bitcnt (s : State) : (statusWord s).extractLsb' 14 2 = 0#2 :=
  statusWord_field fun j hj => by interval_cases j <;> simp [statusWord_getElem]

theorem statusWord_above_phase (s : State) : (statusWord s).extractLsb' 20 12 = 0#12 :=
  statusWord_field fun j hj => by interval_cases j <;> simp [statusWord_getElem]

theorem statusWord_valid (s : State) : (statusWord s).getLsbD 2 = s.valid := by simp [statusWord_getElem]

theorem busy_iff (s : State) : s.busy = true ↔ s.phase ≠ 0#4 := bne_iff_ne

/-- The word a read returns is the register's, taken from the pre-state (R11). -/
theorem readTick_hrdata {word : State → Word} {s t : State} (h : readTick word s = .next t) :
    t.hrdata = some (word s) := by
  obtain ⟨u, -, rfl⟩ := mapNext_eq_next.1 h
  rfl

/-! ### GETREADING -/

theorem readTick_in_idle {word : State → Word} {s : State} (h : s.phase = Phase.idle.code) :
    readTick word s = .next (s.withReadData (word s)) := by
  rw [readTick, phaseStep_of_code h]
  rfl

/-- The state after a tick in IDLE that reads a register (R45, R94). -/
def State.afterRead (s : State) (word : State → Word) : State := (beginTick s).withReadData (word (beginTick s))

theorem State.afterRead_hrdata (s : State) (word : State → Word) :
    (s.afterRead word).hrdata = some (word (beginTick s)) := rfl

@[simp] theorem State.afterRead_hum (s : State) (word : State → Word) : (s.afterRead word).hum = s.hum := rfl

@[simp] theorem State.afterRead_temp (s : State) (word : State → Word) : (s.afterRead word).temp = s.temp := rfl

theorem State.afterRead_script (s : State) (word : State → Word) : (s.afterRead word).script = s.script.tail := rfl

theorem step_of_read_in_idle {i : Instr} {word : State → Word} {s : State} (hfetch : fetch s = .ok i)
    (hidle : s.phase = Phase.idle.code) (hread : exec i = readTick word) : step s = .next (s.afterRead word) := by
  rw [step_of_fetch hfetch, hread]
  exact readTick_in_idle hidle

/-- What the host makes of the words of STATUS, HUM and TEMP, in terms of the registers (R66, R67, R79). -/
theorem hostResult_of_registers (s : State) : hostResult s.stype (statusWord s) (humWord s) (tempWord s) =
    if s.valid = true then .ok ⟨s.stype, s.temp.getLsbD 15, (s.temp.extractLsb' 0 15).toNat, s.hum.toNat⟩
    else .error s.err := by
  have hsign : (tempWord s).getLsbD 15 = s.temp.getLsbD 15 := by simp [tempWord]
  have hmagnitude : (tempWord s).extractLsb' 0 15 = s.temp.extractLsb' 0 15 :=
    BitVec.extractLsb'_setWidth_of_le (by decide)
  have hhum : (humWord s).extractLsb' 0 16 = s.hum :=
    (BitVec.extractLsb'_setWidth_of_le (by decide)).trans BitVec.extractLsb'_eq_self
  rw [hostResult, statusWord_valid, statusWord_err, hsign, hmagnitude, hhum]

/-! ### The stored form of a sample -/

/-- `durationBits` is the least width that holds the durations below the cap. -/
theorem durationBits_le_iff (cap width : Nat) :
    durationBits cap ≤ width ↔ ∀ d < cap, d < 2 ^ width := by
  constructor
  · intro hwidth d hd
    exact hd.trans_le ((edgeCap_le_two_pow cap).trans (Nat.pow_le_pow_right two_pos hwidth))
  · intro h
    unfold durationBits
    split
    · exact Nat.zero_le _
    · exact (Nat.log2_lt (by omega)).2 (h (cap - 1) (by omega))

theorem ofNat_duration_toNat {cap d : Nat} (h : d < cap) : (BitVec.ofNat (durationBits cap) d).toNat = d :=
  Nat.mod_eq_of_lt (h.trans_le (edgeCap_le_two_pow cap))

theorem storedSample_toNat {cap : Nat} {x : Sample} (h : x.duration < cap) :
    (storedSample cap x).toNat = (if x.level = .high then 2 ^ durationBits cap else 0) + x.duration := by
  rw [storedSample, append_toNat, ofNat_duration_toNat h]
  cases x.level <;> simp [Level.bit]

theorem loadedSample_storedSample {cap : Nat} {x : Sample} (h : x.duration < cap) :
    loadedSample cap (storedSample cap x) = x := by
  have hlevel : (storedSample cap x).getLsbD (durationBits cap) = x.level.bit.getLsbD 0 := by
    rw [storedSample, BitVec.getLsbD_append, if_neg (lt_irrefl _), Nat.sub_self]
  have hduration : ((storedSample cap x).extractLsb' 0 (durationBits cap)).toNat = x.duration := by
    rw [storedSample, BitVec.extractLsb'_append_eq_right, ofNat_duration_toNat h]
  rw [loadedSample, hlevel, hduration]
  obtain ⟨level, duration⟩ := x
  cases level <;> simp [Level.bit]

/-! ### The unused phase codes -/

/-- Whatever a host operation decodes to is a START, a read, or the phase rule alone. -/
theorem exec_of_decodeHop {h : HostOp} {i : Instr} (hd : decodeHop h = .ok i) :
    (∃ v, exec i = startTick v) ∨ (∃ word, exec i = readTick word) ∨ exec i = phaseStep := by
  rcases decodeHop_ok_cases hd with ⟨-, rfl⟩ | ⟨off, -, hr⟩ | ⟨off, v, -, hw⟩
  · exact .inr (.inr rfl)
  · rcases (decodeRead_ok_iff off i).1 hr with ⟨-, rfl⟩ | ⟨-, rfl⟩ | ⟨-, rfl⟩ | ⟨-, rfl⟩ | ⟨-, rfl⟩ <;>
      exact .inr (.inl ⟨_, rfl⟩)
  · rcases (decodeWrite_ok_iff off v i).1 hw with ⟨-, rfl⟩ | ⟨-, rfl⟩ | ⟨-, rfl⟩ | ⟨-, rfl⟩ | ⟨-, rfl⟩
    · rcases decodeCommand_cases v with ⟨-, hc⟩ | ⟨-, hc⟩ | ⟨-, hc⟩ | ⟨-, -, -, hc⟩ <;> rw [hc] <;>
        exact .inl ⟨_, rfl⟩
    all_goals exact .inr (.inr rfl)

/-- With an unused phase code no host operation helps: a START is not accepted, a read and an ignored write run the phase
rule, and there is none (R74). -/
theorem exec_stuck {h : HostOp} {i : Instr} {s : State} (hd : decodeHop h = .ok i) (hs : 8 ≤ s.phase.toNat) :
    exec i s = .fault (.stuckPhase s.phase) := by
  have hbusy : s.phase ≠ Phase.idle.code := fun hp => absurd hs (by simp [hp])
  have hrule := phaseStep_stuck hs
  rcases exec_of_decodeHop hd with ⟨v, hi⟩ | ⟨word, hi⟩ | hi <;> rw [hi]
  · rw [startTick, if_neg hbusy, hrule]
  · rw [readTick, hrule]
    rfl
  · exact hrule

theorem toReset_inResetState (s : State) : InResetState s.toReset := { resetWith_inResetState s.cfg with }

theorem step_of_reset {s : State} (h : s.inputs.rst = true) : step s = .next (beginTick s).toReset := by
  have hfetch : fetch s = .ok .reset := by rw [fetch, h, decode]
  exact step_of_fetch hfetch

end Machine

open Machine

/-- Settles O14: the word read is the STATUS word of the pre-state. -/
theorem statusWordLayout : Obligations.StatusWordLayout := by
  intro s t w h hw
  obtain rfl : statusWord s = w := Option.some.inj ((readTick_hrdata h).symm.trans hw)
  exact ⟨by simp [statusWord_getElem, busy_iff], by simp [statusWord_getElem], statusWord_valid s,
    by simp [statusWord_getElem], statusWord_err s, by simp [statusWord_getElem], statusWord_bitcnt s,
    statusWord_above_bitcnt s, statusWord_phase s, statusWord_above_phase s⟩

/-- Settles O18: each of the three ticks keeps every register and returns one word. -/
theorem getReadingReturnsTheOutcome : Obligations.GetReadingReturnsTheOutcome := by
  intro s hidle hscript
  have hstatus : fetch s = .ok .rdStatus := by
    rw [fetch, State.inputs, hscript]
    rfl
  have hhum : fetch (s.afterRead statusWord) = .ok .rdHum := by
    rw [fetch, State.inputs, State.afterRead_script, hscript]
    rfl
  have htemp : fetch ((s.afterRead statusWord).afterRead humWord) = .ok .rdTemp := by
    rw [fetch, State.inputs, State.afterRead_script, State.afterRead_script, hscript]
    rfl
  have h₁ := step_of_read_in_idle (word := statusWord) hstatus hidle rfl
  have h₂ := step_of_read_in_idle (word := humWord) hhum hidle rfl
  have h₃ := step_of_read_in_idle (word := tempWord) htemp hidle rfl
  refine ⟨_, _, _, statusWord s, humWord s, tempWord s, run_succ_of_next h₁ 0,
    (run_succ_of_next h₁ 1).trans (run_succ_of_next h₂ 0),
    (run_succ_of_next h₁ 2).trans ((run_succ_of_next h₂ 1).trans (run_succ_of_next h₃ 0)), ?_, ?_, ?_,
    hostResult_of_registers s⟩
  · simp [State.afterRead_hrdata, statusWord, State.busy]
  · simp [State.afterRead_hrdata, humWord]
  · simp [State.afterRead_hrdata, tempWord]

/-- Settles O55: a duration below the cap fits the bits of an entry, and the invariant keeps durations below it. -/
theorem storedSamplesFitTheirEntries : Obligations.StoredSamplesFitTheirEntries :=
  ⟨fun cap _ => durationBits_le_iff cap, by decide,
    fun _ _ hd => ⟨storedSample_toNat hd, loadedSample_storedSample hd⟩,
    fun _ hinv x hx => loadedSample_storedSample (hinv.durations x hx)⟩

/-- Settles O1, by running the decoder on each word. -/
theorem wordsOfTheTablesDecode : Obligations.WordsOfTheTablesDecode :=
  ⟨rfl, rfl, rfl, rfl, rfl, rfl, rfl, rfl⟩

/-- Settles O6: without reset the phase has no rule to run, and reset needs none. -/
theorem unusedPhaseCodesAreStuck : Obligations.UnusedPhaseCodesAreStuck := by
  intro s hs
  refine ⟨fun i hrst hd => ?_, fun hrst => ⟨_, step_of_reset hrst, toReset_inResetState _⟩⟩
  rw [step_of_fetch ((fetch_of_no_reset hrst).trans hd)]
  exact exec_stuck hd hs

end Sys2Proof
end

section
/-! The host commands (40_host_commands.md): a START in IDLE and while busy, the reads and the ignored writes, the ticks of an
idle block, and where a reading comes from. -/

namespace Sys2Proof
namespace Machine

/-! ### A write to CMD -/

/-- R90, R91: in IDLE a START is accepted. -/
theorem exec_start_in_idle {i : Instr} {v : Word} {s : State} (hv : startValue i = some v)
    (hidle : s.phase = Phase.idle.code) : exec i s = .next (s.start v) :=
  (exec_start hv s).trans (if_pos hidle)

/-- R92: while an operation runs, the tick of a START is the tick of a NOP. -/
theorem exec_start_while_busy {i : Instr} {v : Word} {s : State} (hv : startValue i = some v)
    (hbusy : s.phase ≠ Phase.idle.code) : exec i s = exec .nop s :=
  (exec_start hv s).trans (if_neg hbusy)

theorem phaseStep_keeps_stype {s t : State} (h : phaseStep s = .next t) : t.stype = s.stype := by
  obtain ⟨p, -, hu⟩ := phaseStep_next_cases h
  exact (phaseInstr_keepsForeignRegisters hu).stype

/-! ### Reads -/

/-- A read tick is the tick of the phase rule, with the word of the pre-state in the read port (R11). -/
theorem readTick_of_phaseStep {word : State → Word} {s t : State} (h : phaseStep s = .next t) :
    readTick word s = .next (t.withReadData (word s)) :=
  mapNext_eq_next.2 ⟨t, h, rfl⟩

theorem busy_toNat (s : State) : s.busy.toNat = if s.phase = 0#4 then 0 else 1 := by
  by_cases h : s.phase = 0#4 <;> simp [State.busy, h]

/-! ### The ticks of an idle block -/

/-- A host operation that does not write to CMD decodes to a read, or leaves the phase rule alone (R43). -/
theorem exec_of_decodeHop_not_command {h : HostOp} {i : Instr} (hd : decodeHop h = .ok i)
    (hcmd : ∀ size v, h ≠ .write 0x00#32 size v) : (∃ word, exec i = readTick word) ∨ exec i = phaseStep := by
  rcases decodeHop_ok_cases hd with ⟨-, rfl⟩ | ⟨off, -, hr⟩ | ⟨off, v, rfl, hw⟩
  · exact .inr rfl
  · rcases (decodeRead_ok_iff off i).1 hr with ⟨-, rfl⟩ | ⟨-, rfl⟩ | ⟨-, rfl⟩ | ⟨-, rfl⟩ | ⟨-, rfl⟩ <;>
      exact .inl ⟨_, rfl⟩
  · rcases (decodeWrite_ok_iff off v i).1 hw with ⟨rfl, -⟩ | ⟨-, rfl⟩ | ⟨-, rfl⟩ | ⟨-, rfl⟩ | ⟨-, rfl⟩
    · exact absurd rfl (hcmd 4 v)
    all_goals exact .inr rfl

theorem IdleFor.quietFor {k : Nat} {s : State} (h : IdleFor k s) : QuietFor k s := by
  intro x hx
  obtain ⟨hrst, hnone | ⟨-, i, -, hd⟩ | ⟨-, -, i, -, -, hd⟩⟩ := h x hx
  · exact ⟨hrst, .nop, by rw [hnone]; rfl⟩
  · exact ⟨hrst, i, hd⟩
  · exact ⟨hrst, i, hd⟩

theorem IdleFor.not_command {k : Nat} {s : State} (h : IdleFor (k + 1) s) (size : Nat) (v : Word) :
    s.inputs.hop ≠ .write 0x00#32 size v := by
  unfold State.inputs
  cases hs : s.script with
  | nil => nofun
  | cons x rest =>
    intro hx
    obtain ⟨-, hnone | ⟨off, -, hread, -⟩ | ⟨off, u, -, hwrite, hoff, -⟩⟩ := h x (by simp [hs])
    · cases hx.symm.trans hnone
    · cases hx.symm.trans hread
    · cases hx.symm.trans hwrite
      exact hoff rfl

theorem IdleFor.tail {k : Nat} {s t : State} (h : IdleFor (k + 1) s) (ht : t.script = s.script.tail) : IdleFor k t := by
  intro x hx
  have hmem : x ∈ (s.script.take (k + 1)).tail := by rwa [List.tail_take_eq_take_tail, Nat.add_sub_cancel, ← ht]
  exact h x (List.mem_of_mem_tail hmem)

/-- One such tick in IDLE takes its inputs and may set the read port; no register changes (R94). -/
theorem step_in_idle {k : Nat} {s : State} (hidle : s.phase = Phase.idle.code) (h : IdleFor (k + 1) s) :
    ∃ w, step s = .next { beginTick s with hrdata := w } := by
  obtain ⟨i, hfetch, hd⟩ := fetch_of_quiet h.quietFor
  have hrule : phaseStep (beginTick s) = .next (beginTick s) := phaseStep_of_code (p := .idle) hidle
  rw [step_of_fetch hfetch]
  rcases exec_of_decodeHop_not_command hd h.not_command with ⟨word, hi⟩ | hi <;> rw [hi]
  · exact ⟨some (word (beginTick s)), readTick_of_phaseStep hrule⟩
  · exact ⟨none, hrule⟩

/-- However many such ticks pass, the registers stay. -/
theorem run_in_idle {k : Nat} {s : State} (hidle : s.phase = Phase.idle.code) (h : IdleFor k s) :
    ∃ w l, run k s = .next { s with hrdata := w, lin := l, tick := s.tick + k, script := s.script.drop k } := by
  induction k generalizing s with
  | zero => exact ⟨s.hrdata, s.lin, rfl⟩
  | succ k ih =>
    obtain ⟨w₁, hstep⟩ := step_in_idle hidle h
    obtain ⟨w, l, hrun⟩ := ih (s := { beginTick s with hrdata := w₁ }) hidle (h.tail rfl)
    refine ⟨w, l, (run_succ_of_next hstep k).trans (hrun.trans ?_)⟩
    simp [beginTick, Nat.add_assoc, Nat.add_comm 1 k]

/-! ### Where a reading comes from -/

theorem sensorKind_ne_none_iff (v : Word) : sensorKind v ≠ none ↔ v = 11#32 ∨ v = 22#32 ∨ v = 2302#32 := by
  unfold sensorKind
  split
  · simp [*]
  · split <;> simp [*]

@[simp] theorem pulseGoesOn_valid (s : State) : s.pulseGoesOn.valid = s.valid := by
  unfold State.pulseGoesOn
  split <;> rfl

@[simp] theorem pulseEnds_valid (s : State) : s.pulseEnds.valid = s.valid := by
  unfold State.pulseEnds
  split <;> rfl

/-- After a phase rule VALID is set only where it was before, or where INTERPRET found a supported kind (R165, R168). -/
theorem phaseInstr_valid_origin {p : Phase} {s t : State} (h : exec p.instr s = .next t) (hvalid : t.valid = true) :
    s.valid = true ∨ (p = .interpret ∧ sensorKind s.stype ≠ none) := by
  rcases phaseInstr_next_cases h with ⟨-, rfl⟩ | ⟨-, rfl⟩ | ⟨-, rfl⟩ | ⟨-, rfl⟩ | ⟨-, -, rfl⟩ | ⟨-, -, rfl⟩ | ⟨-, rfl⟩ |
    ⟨rfl, ⟨k, hk, -⟩ | ⟨-, rfl⟩⟩
  · exact .inl hvalid
  · split at hvalid <;> exact .inl hvalid
  · split at hvalid <;> exact .inl hvalid
  · split at hvalid
    · exact .inl hvalid
    · split at hvalid
      · cases hvalid
      · exact .inl hvalid
  · split at hvalid
    · exact .inl ((pulseGoesOn_valid s).symm.trans hvalid)
    · exact .inl ((pulseEnds_valid s).symm.trans hvalid)
  · split at hvalid
    · cases hvalid
    · exact .inl hvalid
  · split at hvalid
    · exact .inl hvalid
    · cases hvalid
  · exact .inr ⟨rfl, by simp [hk]⟩
  · cases hvalid

end Machine

open Machine

/-- Settles O11: a START that is not accepted leaves the tick to the phase rule, and no rule writes TYPE. -/
theorem startWhileBusyIsLost : Obligations.StartWhileBusyIsLost := by
  intro s i hbusy hi
  obtain ⟨v, hv⟩ : ∃ v, startValue i = some v := by
    rcases hi with rfl | rfl | rfl | ⟨v, rfl⟩ <;> exact ⟨_, rfl⟩
  have hnop := exec_start_while_busy hv hbusy
  exact ⟨hnop, fun t ht => phaseStep_keeps_stype (hnop.symm.trans ht)⟩

/-- Settles O13: each of the five ticks is the NOP's with one word of the pre-state in the read port. -/
theorem readsReturnThePreState : Obligations.ReadsReturnThePreState := by
  intro s hs
  obtain ⟨t, ht⟩ := phaseStep_of_operable hs
  refine ⟨t, statusWord s, ?_, ht, readTick_of_phaseStep ht, readTick_of_phaseStep ht, readTick_of_phaseStep ht,
    readTick_of_phaseStep ht, readTick_of_phaseStep ht⟩
  simp only [statusWord, flagWord, busy_toNat]

/-- Settles O15: an ignored write leaves the tick to the phase rule. -/
theorem writesToReadOnlyRegistersDoNothing : Obligations.WritesToReadOnlyRegistersDoNothing := by
  intro s v hs
  obtain ⟨t, ht⟩ := phaseStep_of_operable hs
  exact ⟨t, ht, ht, ht, ht, ht⟩

/-- Settles O17, by induction on the number of ticks. -/
theorem idleKeepsTheOutcomeIndefinitely : Obligations.IdleKeepsTheOutcomeIndefinitely := by
  intro k s hidle h
  obtain ⟨w, l, hrun⟩ := run_in_idle hidle h
  exact ⟨_, hrun, rfl⟩

/-- Settles O41: RESET and START clear VALID, and of the phase rules only INTERPRET sets it. -/
theorem readingNeedsASupportedKind : Obligations.ReadingNeedsASupportedKind := by
  intro i s t h hbefore hafter
  rcases exec_next_rule_cases h with ⟨-, rfl⟩ | ⟨v, -, -, rfl⟩ | ⟨p, u, w, hrun, hu, rfl⟩
  · cases hafter
  · cases hafter
  · obtain hvalid | ⟨rfl, hkind⟩ := phaseInstr_valid_origin hu hafter
    · cases hbefore.symm.trans hvalid
    · exact ⟨hrun, (sensorKind_ne_none_iff s.stype).1 hkind⟩

/-- Settles O10: each form of a START latches its own value, and WAKE_HIGH drives the line HIGH. -/
theorem startInIdleGivesStartState : Obligations.StartInIdleGivesStartState := by
  intro s v i hidle hi
  have hv : startValue i = some v := by
    rcases hi with ⟨rfl, rfl⟩ | ⟨rfl, rfl⟩ | ⟨rfl, rfl⟩ | rfl <;> rfl
  have hstart := exec_start_in_idle hv hidle
  refine ⟨hstart, fun t ht => ?_⟩
  cases hstart.symm.trans ht
  exact ⟨rfl, rfl⟩

/-- Settles O12: an operable state has a next state, and the phase rule reaches it through the phase's instruction. -/
theorem nopRunsThePhaseRule : Obligations.NopRunsThePhaseRule := by
  intro s hs
  obtain ⟨t, ht⟩ := phaseStep_of_operable hs
  obtain ⟨p, hp, hrule⟩ := phaseStep_next_cases ht
  exact ⟨p, t, hp, ht, hrule⟩

/-- Settles O16: the rule of IDLE answers its own state. -/
theorem idlePhaseChangesNothing : Obligations.IdlePhaseChangesNothing := fun _ => rfl

end Sys2Proof
end

section
/-! The wake and the response wait (41_wake_and_response.md): one tick of each of the three phases, and how many ticks each
lasts. -/

namespace Sys2Proof
namespace Machine

/-! ### Where a run leaves the configuration and the ticks to come -/

/-- `t` is `k` ticks after `s`: the same configuration, the tick counter `k` on, the script without its first `k` entries. -/
structure TicksLater (k : Nat) (s t : State) : Prop where
  cfg : t.cfg = s.cfg
  tick : t.tick = s.tick + k
  script : t.script = s.script.drop k

theorem step_ticksLater {s t : State} (h : step s = .next t) : TicksLater 1 s t := by
  obtain ⟨i, -, hx⟩ := step_next_cases h
  obtain ⟨hcfg, -, htick, hscript⟩ := exec_sameConfigAndInputs hx
  exact ⟨hcfg, htick, hscript.trans List.drop_one.symm⟩

theorem run_ticksLater {k : Nat} {s t : State} (h : run k s = .next t) : TicksLater k s t := by
  induction k generalizing s with
  | zero =>
    cases h
    exact ⟨rfl, rfl, rfl⟩
  | succ k ih =>
    obtain ⟨u, hu, hr⟩ := run_succ_next_cases h
    have hfirst := step_ticksLater hu
    have hrest := ih hr
    refine ⟨hrest.cfg.trans hfirst.cfg, ?_, ?_⟩
    · rw [hrest.tick, hfirst.tick, Nat.add_assoc, Nat.add_comm 1 k]
    · rw [hrest.script, hfirst.script, List.drop_drop, Nat.add_comm 1 k]

theorem TicksLater.quietFor {k m : Nat} {s t : State} (h : TicksLater k s t) (hq : QuietFor (k + m) s) : QuietFor m t := by
  intro x hx
  rw [h.script, List.take_drop] at hx
  exact hq x (List.mem_of_mem_drop hx)

theorem TicksLater.levelAt {k : Nat} {s t : State} (h : TicksLater k s t) (j : Nat) : t.levelAt j = s.levelAt (k + j) := by
  unfold State.levelAt
  rw [h.script, h.tick, List.getElem?_drop, Nat.add_assoc]

/-- The level the tick after the `k`-th samples. -/
theorem TicksLater.sampled {k : Nat} {s t : State} (h : TicksLater k s t) : (beginTick t).lin = s.levelAt k :=
  (level_eq_levelAt t).trans (h.levelAt 0)

/-- One more quiet tick of a running operation: the phase rule's next state, but for the read port. -/
theorem run_succ_while_busy {k : Nat} {p : Phase} {s t u : State} (hq : QuietFor (k + 1) s) (ht : run k s = .next t)
    (hp : t.phase = p.code) (hbusy : p ≠ .idle) (hu : exec p.instr (beginTick t) = .next u) :
    ∃ w, run (k + 1) s = .next { u with hrdata := w } := by
  obtain ⟨v, hstep, hv⟩ := step_while_busy (k := 0) ((run_ticksLater ht).quietFor hq) hp hbusy hu
  have hrun : run (k + 1) s = .next v := (run_add ht 1).trans (run_succ_of_next hstep 0)
  rcases hv with rfl | ⟨w, rfl⟩
  · exact ⟨v.hrdata, hrun⟩
  · exact ⟨some w, hrun⟩

/-! ### One tick -/

section
variable {s : State}

theorem execPhWakeHigh_counts (h : s.hold + 1 ≠ s.cfg.wakeHighTicks) :
    execPhWakeHigh s = .next { s with hold := s.hold + 1 } :=
  congrArg Host.Outcome.next (if_neg h)

theorem execPhWakeHigh_ends (h : s.hold + 1 = s.cfg.wakeHighTicks) :
    execPhWakeHigh s = .next { s.goto .wakeLow with hold := 0 } :=
  congrArg Host.Outcome.next (if_pos h)

theorem execPhWakeLow_counts (h : s.hold + 1 ≠ s.cfg.wakeLowTicks) :
    execPhWakeLow s = .next { s with hold := s.hold + 1 } :=
  congrArg Host.Outcome.next (if_neg h)

theorem execPhWakeLow_ends (h : s.hold + 1 = s.cfg.wakeLowTicks) :
    execPhWakeLow s = .next { s.goto .waitResp with hold := 0, wcnt := 0 } :=
  congrArg Host.Outcome.next (if_pos h)

theorem execPhWaitResp_low (hl : s.lin = .low) :
    execPhWaitResp s = .next { s.goto .capture with last := .high, cnt := 0, n := 0 } :=
  congrArg Host.Outcome.next (if_pos hl)

theorem execPhWaitResp_ends (hl : s.lin = .high) (h : s.wcnt + 1 = s.cfg.respCap) :
    execPhWaitResp s = .next (s.raise .noResponse) := by
  rw [execPhWaitResp, if_neg (by simp [hl]), if_pos h]

theorem execPhWaitResp_counts (hl : s.lin = .high) (h : s.wcnt + 1 ≠ s.cfg.respCap) :
    execPhWaitResp s = .next { s with wcnt := s.wcnt + 1 } := by
  rw [execPhWaitResp, if_neg (by simp [hl]), if_neg h]

theorem outputs_in_wakeHigh (h : s.phase = Phase.wakeHigh.code) : s.outputs.loe = true ∧ s.outputs.lout = .high := by
  simp [State.outputs, h]

theorem outputs_in_wakeLow (h : s.phase = Phase.wakeLow.code) : s.outputs.loe = true ∧ s.outputs.lout = .low := by
  simp [State.outputs, h]

theorem outputs_in_waitResp (h : s.phase = Phase.waitResp.code) : s.outputs.loe = false := by
  simp [State.outputs, h]

end

/-! ### The length of a wake phase -/

/-- `s` is in the phase `p` with `j` ticks of it counted in `hold` (R110, R111). -/
def HoldsFor (p : Phase) (j : Nat) (s : State) : Prop := s.phase = p.code ∧ s.hold = j

section
variable {p : Phase} {ticks : Config → Nat} {s : State} (hbusy : p ≠ .idle)
  (hcounts : ∀ t : State, t.hold + 1 ≠ ticks t.cfg → exec p.instr t = .next { t with hold := t.hold + 1 })
  (hs : HoldsFor p 0 s)
include hbusy hcounts hs

/-- A phase whose rule counts `hold` up to `ticks` lasts that long. -/
theorem run_while_holding {k : Nat} (hk : k < ticks s.cfg) (hq : QuietFor k s) :
    ∃ t, run k s = .next t ∧ HoldsFor p k t := by
  induction k with
  | zero => exact ⟨s, rfl, hs⟩
  | succ k ih =>
    obtain ⟨t, ht, hphase, hhold⟩ := ih (Nat.lt_of_succ_lt hk) (quiet_mono k.le_succ hq)
    have hbelow : t.hold + 1 ≠ ticks t.cfg := by
      rw [hhold, (run_ticksLater ht).cfg]
      exact hk.ne
    obtain ⟨w, hrun⟩ := run_succ_while_busy hq ht hphase hbusy (hcounts (beginTick t) hbelow)
    exact ⟨_, hrun, hphase, congrArg Nat.succ hhold⟩

/-- At the last of those ticks `hold` has counted all the others, and the phase rule gives `next`. -/
theorem run_to_end_of_hold {next : State → State}
    (hends : ∀ t : State, t.hold + 1 = ticks t.cfg → exec p.instr t = .next (next t))
    (hpos : 0 < ticks s.cfg) (hq : QuietFor (ticks s.cfg) s) :
    ∃ t w, run (ticks s.cfg) s = .next { next t with hrdata := w } := by
  obtain ⟨m, hm⟩ := Nat.exists_eq_succ_of_ne_zero hpos.ne'
  rw [hm] at hq ⊢
  obtain ⟨t, ht, hphase, hhold⟩ := run_while_holding hbusy hcounts hs (hm ▸ m.lt_succ_self)
    (quiet_mono m.le_succ hq)
  have hlast : t.hold + 1 = ticks t.cfg := by rw [hhold, (run_ticksLater ht).cfg, hm]
  exact ⟨beginTick t, run_succ_while_busy hq ht hphase hbusy (hends (beginTick t) hlast)⟩

end

theorem run_in_wakeHigh {s : State} {k : Nat} (hs : HoldsFor .wakeHigh 0 s) (hk : k < s.cfg.wakeHighTicks)
    (hq : QuietFor k s) : ∃ t, run k s = .next t ∧ HoldsFor .wakeHigh k t :=
  run_while_holding (p := .wakeHigh) (ticks := Config.wakeHighTicks) nofun (fun _ => execPhWakeHigh_counts) hs hk hq

theorem run_in_wakeLow {s : State} {k : Nat} (hs : HoldsFor .wakeLow 0 s) (hk : k < s.cfg.wakeLowTicks)
    (hq : QuietFor k s) : ∃ t, run k s = .next t ∧ HoldsFor .wakeLow k t :=
  run_while_holding (p := .wakeLow) (ticks := Config.wakeLowTicks) nofun (fun _ => execPhWakeLow_counts) hs hk hq

theorem run_to_wakeLow {s : State} (hs : HoldsFor .wakeHigh 0 s) (hpos : 0 < s.cfg.wakeHighTicks)
    (hq : QuietFor s.cfg.wakeHighTicks s) : ∃ t, run s.cfg.wakeHighTicks s = .next t ∧ HoldsFor .wakeLow 0 t := by
  obtain ⟨t, w, hrun⟩ := run_to_end_of_hold (p := .wakeHigh) (ticks := Config.wakeHighTicks) nofun
    (fun _ => execPhWakeHigh_counts) hs (fun _ => execPhWakeHigh_ends) hpos hq
  exact ⟨_, hrun, rfl, rfl⟩

theorem run_to_waitResp {s : State} (hs : HoldsFor .wakeLow 0 s) (hpos : 0 < s.cfg.wakeLowTicks)
    (hq : QuietFor s.cfg.wakeLowTicks s) :
    ∃ t, run s.cfg.wakeLowTicks s = .next t ∧ HoldsFor .waitResp 0 t ∧ t.wcnt = 0 := by
  obtain ⟨t, w, hrun⟩ := run_to_end_of_hold (p := .wakeLow) (ticks := Config.wakeLowTicks) nofun
    (fun _ => execPhWakeLow_counts) hs (fun _ => execPhWakeLow_ends) hpos hq
  exact ⟨_, hrun, ⟨rfl, rfl⟩, rfl⟩

/-! ### The length of the response wait -/

/-- `s` is in WAIT_RESP with `j` polls counted (R112). -/
def WaitsFor (j : Nat) (s : State) : Prop := s.phase = Phase.waitResp.code ∧ s.wcnt = j

/-- HIGH polls below the cap are counted. -/
theorem run_in_waitResp {s : State} {k : Nat} (hs : WaitsFor 0 s) (hk : k < s.cfg.respCap) (hq : QuietFor k s)
    (hhigh : ∀ i < k, s.levelAt i = .high) : ∃ t, run k s = .next t ∧ WaitsFor k t := by
  induction k with
  | zero => exact ⟨s, rfl, hs⟩
  | succ k ih =>
    obtain ⟨t, ht, hphase, hwcnt⟩ := ih (Nat.lt_of_succ_lt hk) (quiet_mono k.le_succ hq)
      fun i hi => hhigh i (Nat.lt_succ_of_lt hi)
    have hlater := run_ticksLater ht
    have hpoll : (beginTick t).lin = .high := hlater.sampled.trans (hhigh k k.lt_succ_self)
    have hbelow : t.wcnt + 1 ≠ t.cfg.respCap := by
      rw [hwcnt, hlater.cfg]
      exact hk.ne
    obtain ⟨w, hrun⟩ := run_succ_while_busy hq ht hphase nofun (execPhWaitResp_counts hpoll hbelow)
    exact ⟨_, hrun, hphase, congrArg Nat.succ hwcnt⟩

/-- The first LOW poll starts the capture. -/
theorem run_to_capture {s : State} {j : Nat} (hs : WaitsFor 0 s) (hj : j < s.cfg.respCap) (hq : QuietFor (j + 1) s)
    (hhigh : ∀ i < j, s.levelAt i = .high) (hlow : s.levelAt j = .low) :
    ∃ t, run (j + 1) s = .next t ∧ t.phase = Phase.capture.code ∧ t.last = .high ∧ t.cnt = 0 ∧ t.n = 0 := by
  obtain ⟨t, ht, hphase, -⟩ := run_in_waitResp hs hj (quiet_mono j.le_succ hq) hhigh
  have hpoll : (beginTick t).lin = .low := (run_ticksLater ht).sampled.trans hlow
  obtain ⟨w, hrun⟩ := run_succ_while_busy hq ht hphase nofun (execPhWaitResp_low hpoll)
  exact ⟨_, hrun, rfl, rfl, rfl, rfl⟩

/-- A HIGH poll that reaches the cap fails. -/
theorem run_to_noResponse {s : State} (hs : WaitsFor 0 s) (hpos : 0 < s.cfg.respCap) (hq : QuietFor s.cfg.respCap s)
    (hhigh : ∀ i < s.cfg.respCap, s.levelAt i = .high) :
    ∃ t, run s.cfg.respCap s = .next t ∧ t.phase = Phase.idle.code ∧ t.done = true ∧ t.valid = false ∧
      t.err = ErrorKind.noResponse.code := by
  obtain ⟨m, hm⟩ := Nat.exists_eq_succ_of_ne_zero hpos.ne'
  rw [hm] at hq hhigh ⊢
  obtain ⟨t, ht, hphase, hwcnt⟩ := run_in_waitResp hs (hm ▸ m.lt_succ_self) (quiet_mono m.le_succ hq)
    fun i hi => hhigh i (Nat.lt_succ_of_lt hi)
  have hlater := run_ticksLater ht
  have hpoll : (beginTick t).lin = .high := hlater.sampled.trans (hhigh m m.lt_succ_self)
  have hlast : t.wcnt + 1 = t.cfg.respCap := by rw [hwcnt, hlater.cfg, hm]
  obtain ⟨w, hrun⟩ := run_succ_while_busy hq ht hphase nofun (execPhWaitResp_ends hpoll hlast)
  exact ⟨_, hrun, rfl, rfl, rfl, rfl⟩

end Machine

open Machine

/-- Settles O21: WAKE_HIGH counts its ticks and leaves WAKE_LOW with hold 0, which does the same. -/
theorem wakeHasItsExactLength : Obligations.WakeHasItsExactLength := by
  intro s hvalid hphase hhold hq
  have hs : HoldsFor .wakeHigh 0 s := ⟨hphase, hhold⟩
  obtain ⟨u, hu, hlow⟩ := run_to_wakeLow hs hvalid.wakeHighTicks_pos (quiet_mono (Nat.le_add_right _ _) hq)
  have hlater := run_ticksLater hu
  rw [← hlater.cfg] at hvalid
  have hqu : QuietFor u.cfg.wakeLowTicks u := hlater.quietFor (hlater.cfg ▸ hq)
  refine ⟨fun k hk => ?_, fun k hk => ?_, ?_⟩
  · obtain ⟨t, ht, hp, -⟩ := run_in_wakeHigh hs hk (quiet_mono (hk.le.trans (Nat.le_add_right _ _)) hq)
    exact ⟨t, ht, hp, outputs_in_wakeHigh hp⟩
  · rw [← hlater.cfg] at hk
    obtain ⟨t, ht, hp, -⟩ := run_in_wakeLow hlow hk (quiet_mono hk.le hqu)
    exact ⟨t, (run_add hu k).trans ht, hp, outputs_in_wakeLow hp⟩
  · obtain ⟨t, ht, ⟨hp, hhold⟩, hwcnt⟩ := run_to_waitResp hlow hvalid.wakeLowTicks_pos hqu
    rw [hlater.cfg] at ht
    exact ⟨t, (run_add hu _).trans ht, hp, hhold, hwcnt, outputs_in_waitResp hp⟩

/-- Settles O23: the polls before the last are HIGH and counted, and the last one is LOW or reaches the cap. -/
theorem responseWaitLength : Obligations.ResponseWaitLength := by
  constructor
  · intro s j hphase hwcnt hj hq hhigh hlow
    refine ⟨fun k hk => ?_, run_to_capture ⟨hphase, hwcnt⟩ hj hq hhigh hlow⟩
    obtain ⟨t, ht, hp, -⟩ := run_in_waitResp ⟨hphase, hwcnt⟩ (hk.trans_lt hj) (quiet_mono (Nat.le_succ_of_le hk) hq)
      fun i hi => hhigh i (hi.trans_le hk)
    exact ⟨t, ht, hp⟩
  · intro s hphase hwcnt hpos hq hhigh
    refine ⟨fun k hk => ?_, run_to_noResponse ⟨hphase, hwcnt⟩ hpos hq hhigh⟩
    obtain ⟨t, ht, hp, -⟩ := run_in_waitResp ⟨hphase, hwcnt⟩ hk (quiet_mono hk.le hq) fun i hi => hhigh i (hi.trans hk)
    exact ⟨t, ht, hp⟩

/-- Settles O19, branch by branch. -/
theorem wakeHighTick : Obligations.WakeHighTick :=
  fun _ => ⟨outputs_in_wakeHigh, execPhWakeHigh_ends, execPhWakeHigh_counts⟩

/-- Settles O20: the branch that leaves WAKE_LOW enters WAIT_RESP, where the driver is off. -/
theorem wakeLowTick : Obligations.WakeLowTick := by
  refine fun s => ⟨outputs_in_wakeLow, fun hlast => ⟨execPhWakeLow_ends hlast, fun t ht => ?_⟩, execPhWakeLow_counts⟩
  cases (execPhWakeLow_ends hlast).symm.trans ht
  exact outputs_in_waitResp rfl

/-- Settles O22, branch by branch. -/
theorem responseWaitTick : Obligations.ResponseWaitTick :=
  fun _ => ⟨outputs_in_waitResp, execPhWaitResp_low, execPhWaitResp_ends, execPhWaitResp_counts⟩

end Sys2Proof
end

section
/-! The edge capture (42_edge_capture.md): one tick of CAPTURE, what the ticks of a capture add up to and where it ends, and
that no phase rule comes to IDLE but by the end of the operation. -/

namespace Sys2Proof
namespace Machine

/-! ### One tick -/

section
variable {s : State}

theorem outputs_in_capture (h : s.phase = Phase.capture.code) : s.outputs.loe = false := by
  simp [State.outputs, h]

theorem execPhCapture_ends_by_cap (hl : s.lin = s.last) (h : s.cnt + 1 = s.cfg.edgeCap) :
    execPhCapture s = .next { s.goto .extract with endc := false } :=
  execPhCapture_eq_next.2 ⟨.inr hl, by rw [if_pos hl, State.pulseGoesOn, if_pos h]⟩

theorem execPhCapture_counts (hl : s.lin = s.last) (h : s.cnt + 1 ≠ s.cfg.edgeCap) :
    execPhCapture s = .next { s with cnt := s.cnt + 1 } :=
  execPhCapture_eq_next.2 ⟨.inr hl, by rw [if_pos hl, State.pulseGoesOn, if_neg h]⟩

theorem execPhCapture_ends_by_budget (hl : s.lin ≠ s.last) (hn : s.n < s.samples.length)
    (h : s.n + 1 = s.cfg.maxEdges) : execPhCapture s = .next { s.record.goto .extract with endc := true } :=
  execPhCapture_eq_next.2 ⟨.inl hn, by rw [if_neg hl, State.pulseEnds, if_pos h]⟩

theorem execPhCapture_records (hl : s.lin ≠ s.last) (hn : s.n < s.samples.length) (h : s.n + 1 ≠ s.cfg.maxEdges) :
    execPhCapture s = .next s.record :=
  execPhCapture_eq_next.2 ⟨.inl hn, by rw [if_neg hl, State.pulseEnds, if_neg h]⟩

/-- The four branches of R125, for a tick that answers. -/
theorem execPhCapture_next_cases {t : State} (h : execPhCapture s = .next t) :
    (s.cnt + 1 = s.cfg.edgeCap ∧ t = { s.goto .extract with endc := false }) ∨
    (s.cnt + 1 ≠ s.cfg.edgeCap ∧ t = { s with cnt := s.cnt + 1 }) ∨
    (s.n < s.samples.length ∧ s.n + 1 = s.cfg.maxEdges ∧ t = { s.record.goto .extract with endc := true }) ∨
    (s.n < s.samples.length ∧ s.n + 1 ≠ s.cfg.maxEdges ∧ t = s.record) := by
  obtain ⟨hroom, rfl⟩ := execPhCapture_eq_next.1 h
  split
  · unfold State.pulseGoesOn
    split
    · exact .inl ⟨‹_›, rfl⟩
    · exact .inr (.inl ⟨‹_›, rfl⟩)
  · have hn : s.n < s.samples.length := hroom.resolve_right ‹_›
    unfold State.pulseEnds
    split
    · exact .inr (.inr (.inl ⟨hn, ‹_›, rfl⟩))
    · exact .inr (.inr (.inr ⟨hn, ‹_›, rfl⟩))

end

/-! ### What the ticks add up to -/

/-- The ticks that the recorded samples account for: one for each sample and its duration (R132). -/
def recordedTicks (s : State) : Nat := s.n + durationSum s

/-- Recording a pulse turns its count, and the tick that finds its end, into recorded ticks. -/
theorem record_recordedTicks {s : State} (h : s.n < s.samples.length) :
    recordedTicks s.record = recordedTicks s + s.cnt + 1 := by
  unfold recordedTicks durationSum
  rw [record_take s h]
  simp
  omega

/-- `s` is in CAPTURE `j` ticks after its first, and each pulse so far was shorter than the cap. -/
structure CapturesFor (j : Nat) (s : State) : Prop where
  phase : s.phase = Phase.capture.code
  buffer : s.samples.length = s.cfg.maxEdges
  budget : s.n < s.cfg.maxEdges
  cap : s.cnt < s.cfg.edgeCap
  recorded : recordedTicks s ≤ s.n * s.cfg.edgeCap
  ticks : j = recordedTicks s + s.cnt

/-- The capture has ended after `k` ticks, by the sample budget or by the edge cap as ENDC says (R127, R128). -/
structure CaptureEnded (k : Nat) (s : State) : Prop where
  phase : s.phase = Phase.extract.code
  byBudget : s.endc = true → s.n = s.cfg.maxEdges ∧ k = recordedTicks s
  byCap : s.endc = false → k = recordedTicks s + s.cfg.edgeCap

theorem CapturesFor.lt_bound {j : Nat} {s : State} (h : CapturesFor j s) : j < s.cfg.maxEdges * s.cfg.edgeCap :=
  calc
    j = recordedTicks s + s.cnt := h.ticks
    _ < s.n * s.cfg.edgeCap + s.cfg.edgeCap := Nat.add_lt_add_of_le_of_lt h.recorded h.cap
    _ = (s.n + 1) * s.cfg.edgeCap := (Nat.succ_mul _ _).symm
    _ ≤ s.cfg.maxEdges * s.cfg.edgeCap := Nat.mul_le_mul_right _ h.budget

/-- One more tick goes on with the capture or ends it. -/
theorem CapturesFor.tick {j : Nat} {s : State} (h : CapturesFor j s) :
    ∃ t, execPhCapture s = .next t ∧ (CapturesFor (j + 1) t ∨ CaptureEnded (j + 1) t) := by
  have hentry : s.n < s.samples.length := h.budget.trans_eq h.buffer.symm
  have hcap := h.cap
  have hbudget := h.budget
  have hticks : j + 1 = recordedTicks s + (s.cnt + 1) := congrArg Nat.succ h.ticks
  have hrecord : j + 1 = recordedTicks s.record := hticks.trans (record_recordedTicks hentry).symm
  obtain ⟨t, ht⟩ : ∃ t, execPhCapture s = .next t := ⟨_, execPhCapture_eq_next.2 ⟨.inl hentry, rfl⟩⟩
  refine ⟨t, ht, ?_⟩
  rcases execPhCapture_next_cases ht with ⟨hlast, rfl⟩ | ⟨hbelow, rfl⟩ | ⟨-, hfull, rfl⟩ | ⟨-, hroom, rfl⟩
  · exact .inr ⟨rfl, nofun, fun _ => hlast ▸ hticks⟩
  · exact .inl { h with cap := Nat.lt_of_le_of_ne hcap hbelow, ticks := hticks }
  · exact .inr ⟨rfl, fun _ => ⟨hfull, hrecord⟩, nofun⟩
  · exact .inl
      { phase := h.phase
        buffer := (record_buffer_length s).trans h.buffer
        budget := Nat.lt_of_le_of_ne hbudget hroom
        cap := Nat.zero_lt_of_lt hcap
        recorded := calc
          recordedTicks s.record = recordedTicks s + (s.cnt + 1) := record_recordedTicks hentry
          _ ≤ s.n * s.cfg.edgeCap + s.cfg.edgeCap := Nat.add_le_add h.recorded hcap
          _ = (s.n + 1) * s.cfg.edgeCap := (Nat.succ_mul _ _).symm
        ticks := hrecord }

/-- WAIT_RESP leaves a state that begins a capture (R112). -/
theorem capturesFor_zero {s : State} (hvalid : s.cfg.Valid) (hbuffer : s.samples.length = s.cfg.maxEdges)
    (hphase : s.phase = Phase.capture.code) (hn : s.n = 0) (hcnt : s.cnt = 0) : CapturesFor 0 s where
  phase := hphase
  buffer := hbuffer
  budget := hn ▸ hvalid.maxEdges_pos
  cap := hcnt ▸ hvalid.edgeCap_pos
  recorded := by simp [recordedTicks, durationSum, hn]
  ticks := by simp [recordedTicks, durationSum, hn, hcnt]

/-! ### The whole capture -/

/-- `j` ticks from `s` on the capture still runs. -/
def StillCaptures (s : State) (j : Nat) : Prop := ∃ t, run j s = .next t ∧ CapturesFor j t

theorem StillCaptures.lt_bound {s : State} {j : Nat} (h : StillCaptures s j) : j < s.cfg.maxEdges * s.cfg.edgeCap := by
  obtain ⟨t, ht, hcap⟩ := h
  exact (run_ticksLater ht).cfg ▸ hcap.lt_bound

/-- A quiet tick of a capture that still runs: it still runs after it, or has ended. -/
theorem StillCaptures.tick {s : State} {j : Nat} (h : StillCaptures s j) (hq : QuietFor (j + 1) s) :
    StillCaptures s (j + 1) ∨ ∃ t, run (j + 1) s = .next t ∧ CaptureEnded (j + 1) t := by
  obtain ⟨t, ht, hcap⟩ := h
  have hbegin : CapturesFor j (beginTick t) := { hcap with }
  obtain ⟨u, hu, hnext⟩ := hbegin.tick
  obtain ⟨w, hrun⟩ := run_succ_while_busy hq ht hcap.phase nofun hu
  rcases hnext with hgoes | hends
  · exact .inl ⟨_, hrun, { hgoes with }⟩
  · exact .inr ⟨_, hrun, { hends with }⟩

/-- The first tick after which the capture no longer runs is the one that ends it, and it is within the bound. -/
theorem run_to_extract {s : State} (hs : CapturesFor 0 s) (hq : QuietFor (s.cfg.maxEdges * s.cfg.edgeCap) s) :
    ∃ k ≤ s.cfg.maxEdges * s.cfg.edgeCap, (∃ t, run k s = .next t ∧ CaptureEnded k t) ∧ ∀ j < k, StillCaptures s j := by
  classical
  have hstops : ∃ k, ¬ StillCaptures s k := ⟨_, fun h => h.lt_bound.false⟩
  obtain ⟨k, hstopped, hmin⟩ := Nat.findX hstops
  have hbefore : ∀ j < k, StillCaptures s j := fun j hj => not_not.1 (hmin j hj)
  cases k with
  | zero => exact absurd ⟨s, rfl, hs⟩ hstopped
  | succ m =>
    have hlast : StillCaptures s m := hbefore m m.lt_succ_self
    have hend := (hlast.tick (quiet_mono hlast.lt_bound hq)).resolve_left hstopped
    exact ⟨m + 1, hlast.lt_bound, hend, hbefore⟩

/-! ### Leaving an operation -/

/-- A phase rule answers a state in IDLE only where the state was idle, or where it ended the operation (R184, R185). -/
theorem phaseInstr_to_idle {p : Phase} {s t : State} (h : exec p.instr s = .next t) (hidle : t.phase = Phase.idle.code) :
    s.phase = Phase.idle.code ∨ t.done = true := by
  rcases phaseInstr_next_cases h with ⟨-, rfl⟩ | ⟨-, rfl⟩ | ⟨-, rfl⟩ | ⟨-, rfl⟩ | ⟨rfl, -, -⟩ | ⟨-, -, rfl⟩ | ⟨-, rfl⟩ |
    ⟨-, ⟨k, -, rfl⟩ | ⟨-, rfl⟩⟩
  · exact .inl hidle
  · split at hidle
    · cases hidle
    · exact .inl hidle
  · split at hidle
    · cases hidle
    · exact .inl hidle
  · repeat' split at hidle
    · cases hidle
    · exact .inr (by simp [*])
    · exact .inl hidle
  · rcases execPhCapture_next_cases h with ⟨-, rfl⟩ | ⟨-, rfl⟩ | ⟨-, -, rfl⟩ | ⟨-, -, rfl⟩
    · cases hidle
    · exact .inl hidle
    · cases hidle
    · exact .inl hidle
  · split at hidle
    · exact .inr (by simp [*])
    · cases hidle
  · split at hidle
    · cases hidle
    · exact .inr (by simp [*])
  · exact .inr rfl
  · exact .inr rfl

end Machine

open Machine

/-- Settles O54: the capture runs on from its first tick until the one that ends it. -/
theorem captureTakesItsSamplesAndDurations : Obligations.CaptureTakesItsSamplesAndDurations := by
  intro s hvalid hbuffer hphase hn hcnt hq
  obtain ⟨k, hk, ⟨t, ht, hend⟩, hbefore⟩ := run_to_extract (capturesFor_zero hvalid hbuffer hphase hn hcnt) hq
  have hcfg := (run_ticksLater ht).cfg
  refine ⟨k, t, hk, ht, hend.phase, hcfg ▸ hend.byBudget, hcfg ▸ hend.byCap, fun j hj => ?_⟩
  obtain ⟨u, hu, hcap⟩ := hbefore j hj
  exact ⟨u, hu, hcap.phase, hcap.ticks⟩

/-- Settles O27: a branch of the rule keeps the recorded ticks, or adds the count under way and the tick that ends it. -/
theorem captureTicksAddUp : Obligations.CaptureTicksAddUp := by
  intro s t hphase h
  have hmoved : Phase.extract.code ≠ s.phase := by simp [hphase]
  rcases execPhCapture_next_cases h with ⟨hlast, rfl⟩ | ⟨-, rfl⟩ | ⟨hentry, -, rfl⟩ | ⟨hentry, -, rfl⟩
  · exact ⟨fun hstay => absurd hstay hmoved, nofun, fun _ _ => congrArg (recordedTicks s + ·) hlast.symm⟩
  · exact ⟨fun _ => rfl, fun hleft => absurd rfl hleft, fun hleft => absurd rfl hleft⟩
  · exact ⟨fun hstay => absurd hstay hmoved, fun _ _ => record_recordedTicks hentry, nofun⟩
  · exact ⟨fun _ => record_recordedTicks hentry, fun hleft => absurd rfl hleft, fun hleft => absurd rfl hleft⟩

/-- Settles O40: a START needs an idle state, and a phase rule comes to IDLE only by the end of the operation. -/
theorem onlyResetAbandonsAnOperation : Obligations.OnlyResetAbandonsAnOperation := by
  intro i s t h hreset hbusy hidle
  rcases exec_next_rule_cases h with ⟨hi, -⟩ | ⟨v, -, hs, -⟩ | ⟨p, u, w, -, hu, rfl⟩
  · exact absurd hi hreset
  · exact absurd hs hbusy
  · exact (phaseInstr_to_idle hu hidle).resolve_left hbusy

/-- Settles O24, branch by branch. -/
theorem captureTick : Obligations.CaptureTick :=
  fun _ => ⟨outputs_in_capture, execPhCapture_ends_by_cap, execPhCapture_counts, execPhCapture_ends_by_budget,
    execPhCapture_records⟩

end Sys2Proof
end

section
/-! The bit extraction (43_bit_extraction.md): the tick of EXTRACT for every content of the buffer, and which samples give the
bits of a capture that alternates. -/

namespace Sys2Proof
namespace Machine

/-! ### One tick -/

/-- The loop counts the bits it packs. -/
theorem extractAll_count (threshold : Nat) (xs : List Sample) :
    (extractAll threshold xs).1 = (frameBitsOf threshold xs).length :=
  congrArg Prod.fst (extractAll_eq threshold xs)

/-- The codes of R180 for the two errors of R143. -/
theorem shortFrameError_code (endc : Bool) : (shortFrameError endc).code = if endc = true then 3#3 else 2#3 := by
  cases endc <;> rfl

/-- The frame and its bit count are written on both paths (R140). -/
theorem execPhExtract_writes_frame {s t : State} (h : execPhExtract s = .next t) :
    t.frame = s.extracted.frame ∧ t.bitcnt = s.extracted.bitcnt := by
  obtain ⟨-, rfl⟩ := execPhExtract_eq_next.1 h
  split <;> exact ⟨rfl, rfl⟩

/-! ### An alternating list of samples -/

/-- The levels alternate, starting with HIGH (R130). -/
def LevelsAlternate (xs : List Sample) : Prop := ∀ i x, xs[i]? = some x → x.level = levelOfIndex i

theorem levelOfIndex_add_two_mul (i m : Nat) : levelOfIndex (i + 2 * m) = levelOfIndex i := by
  unfold levelOfIndex
  rw [Nat.add_mul_mod_self_left]

/-- Of an alternating list the HIGH samples are those of even index (R145). -/
theorem LevelsAlternate.getElem?_filter_high : ∀ {xs : List Sample}, LevelsAlternate xs → ∀ k : Nat,
    (xs.filter fun x => x.level = .high)[k]? = xs[2 * k]?
  | [], _, k => by simp
  | [x], h, k => by
    have hx : x.level = .high := h 0 x rfl
    cases k <;> simp [hx, Nat.mul_succ]
  | x :: y :: rest, h, k => by
    have hx : x.level = .high := h 0 x rfl
    have hy : y.level = .low := h 1 y rfl
    have hrest : LevelsAlternate rest := fun i z hz => (h (i + 2) z hz).trans (levelOfIndex_add_two_mul i 1)
    cases k with
    | zero => simp [hx]
    | succ k => simpa [hx, hy, Nat.mul_succ] using hrest.getElem?_filter_high k

/-- Every second sample of an alternating list is HIGH, the first one included. -/
theorem LevelsAlternate.length_filter_high {xs : List Sample} (h : LevelsAlternate xs) :
    (xs.filter fun x => x.level = .high).length = (xs.length + 1) / 2 := by
  have hiff (m : Nat) : (xs.filter fun x => x.level = .high).length ≤ m ↔ xs.length ≤ 2 * m := by
    rw [← List.getElem?_eq_none_iff, h.getElem?_filter_high, List.getElem?_eq_none_iff]
  have hle := (hiff ((xs.length + 1) / 2)).2 (by omega)
  have hge := (hiff _).1 le_rfl
  omega

/-! ### The bits of an alternating capture -/

/-- The bits of R140: the first 40 HIGH samples after the preamble, each against the threshold. -/
theorem frameBitsOf_eq (threshold : Nat) (xs : List Sample) : frameBitsOf threshold xs =
    (((xs.drop preamble).filter fun x => x.level = .high).take frameBits).map (sampleBit threshold) := rfl

/-- The preamble has an even number of samples, so what follows it alternates as the whole capture does. -/
theorem Alternates.after_preamble {s : State} (h : Alternates s) :
    LevelsAlternate ((s.samples.take s.n).drop preamble) := by
  intro i x hx
  rw [List.getElem?_drop, Nat.add_comm preamble, List.getElem?_take, Option.ite_none_right_eq_some] at hx
  obtain ⟨hlt, hx⟩ := hx
  exact (h _ x hlt hx).trans (levelOfIndex_add_two_mul i 2)

/-- R145: the number of bits. -/
theorem Alternates.frameBitsOf_length {s : State} (h : Alternates s) (hn : s.n ≤ s.samples.length) :
    (frameBitsOf s.cfg.bitThreshold (s.samples.take s.n)).length = min 40 ((s.n - 3) / 2) := by
  have hlen := h.after_preamble.length_filter_high
  rw [List.length_drop, List.length_take_of_le hn] at hlen
  rw [frameBitsOf_eq, List.length_map, List.length_take, hlen]
  simp only [preamble, frameBits]
  omega

/-- R145: bit `k` is decided by `S[4 + 2k]`. -/
theorem Alternates.frameBitsOf_getElem? {s : State} (h : Alternates s) {k : Nat} (hk : k < 40) (hkn : 4 + 2 * k < s.n) :
    (frameBitsOf s.cfg.bitThreshold (s.samples.take s.n))[k]? =
      s.samples[4 + 2 * k]?.map (sampleBit s.cfg.bitThreshold) := by
  have hhigh := h.after_preamble.getElem?_filter_high k
  rw [List.getElem?_drop, List.getElem?_take_of_lt hkn] at hhigh
  rw [frameBitsOf_eq, List.getElem?_map, List.getElem?_take_of_lt hk, ← hhigh]

/-- Bit `k` of the frame EXTRACT writes (R141). -/
theorem extracted_frame_bit (s : State) {k : Nat} (hk : k < 40) :
    (frameByte s.extracted.frame (k / 8)).getLsbD (7 - k % 8) =
      (frameBitsOf s.cfg.bitThreshold (s.samples.take s.n)).getD k false := by
  have h := frame_bit s.cfg.bitThreshold (s.samples.take s.n) (j := k / 8) (m := k % 8) (by omega) (by omega)
  rwa [Nat.div_add_mod] at h

/-- R145 on the frame: bit `k` is decided by `S[4 + 2k]`, a HIGH sample. -/
theorem Alternates.extracted_frame_bit {s : State} (h : Alternates s) (hn : s.n ≤ s.samples.length) {k : Nat}
    (hk : k < 40) (hkn : 4 + 2 * k < s.n) :
    ∃ x, s.samples[4 + 2 * k]? = some x ∧ x.level = .high ∧
      (frameByte s.extracted.frame (k / 8)).getLsbD (7 - k % 8) = decide (x.duration > s.cfg.bitThreshold) := by
  have hx := List.getElem?_eq_getElem (hkn.trans_le hn)
  have hbit := h.frameBitsOf_getElem? hk hkn
  rw [hx, Option.map_some] at hbit
  refine ⟨_, hx, (h _ _ hkn hx).trans (if_pos (by omega)), ?_⟩
  rw [Machine.extracted_frame_bit s hk, List.getD_eq_getElem?_getD, hbit]
  rfl

end Machine

open Machine

/-- Settles O28: the loop chooses the bits, `frame_bit` says where each goes, and the count decides the branch. -/
theorem extractPacksTheBitSamples : Obligations.ExtractPacksTheBitSamples := by
  intro s hn
  refine ⟨frameBitsOf s.cfg.bitThreshold (s.samples.take s.n), s.extracted.frame, rfl,
    fun j hj m hm => frame_bit _ _ hj hm, execPhExtract_eq_next.2 ⟨hn, ?_⟩⟩
  unfold State.extracted
  rw [extractAll_count]
  split
  · rw [State.raise, shortFrameError_code]
    rfl
  · rfl

/-- Settles O29: the bits are decided by the even samples after the preamble, and there are as many as R145 says. -/
theorem bitSamplesAreTheEvenSamples : Obligations.BitSamplesAreTheEvenSamples := by
  intro s t halt hn hx
  obtain ⟨hframe, hbitcnt⟩ := execPhExtract_writes_frame hx
  have hcount : t.bitcnt.toNat = min 40 ((s.n - 3) / 2) := by
    rw [hbitcnt, extracted_bitcnt_toNat, extractAll_count, halt.frameBitsOf_length hn]
  refine ⟨hcount, by omega, by omega, fun k hk => ?_⟩
  rw [hframe]
  exact halt.extracted_frame_bit hn (by omega) (by omega)

end Sys2Proof
end

section
/-! The checksum (44_checksum.md): the two branches of CHECK, the one byte it accepts, and that CHECK and INTERPRET depend on
the frame and on TYPE alone. -/

namespace Sys2Proof
namespace Machine

/-- R156: being the checksum, on naturals. -/
theorem eq_checksum_iff {b : Byte} {f : Frame} :
    b = checksum f ↔ b.toNat = (f.b0.toNat + f.b1.toNat + f.b2.toNat + f.b3.toNat) % 256 := by
  rw [← checksum_toNat, BitVec.toNat_inj]

section
variable {s : State}

theorem execPhCheck_passes (h : s.frame.b4 = checksum s.frame) : execPhCheck s = .next (s.goto .interpret) :=
  congrArg Host.Outcome.next (if_pos h)

theorem execPhCheck_fails (h : s.frame.b4 ≠ checksum s.frame) : execPhCheck s = .next (s.raise .checksumMismatch) :=
  congrArg Host.Outcome.next (if_neg h)

theorem execPhInterpret_reads {k : SensorKind} (h : sensorKind s.stype = some k) : execPhInterpret s =
    .next { s with hum := humidity k s.frame, temp := temperature k s.frame }.succeed := by
  rw [execPhInterpret, h]

theorem execPhInterpret_unsupported (h : sensorKind s.stype = none) :
    execPhInterpret s = .next (s.raise .unsupportedType) := by
  rw [execPhInterpret, h]

/-- R157: which branch CHECK takes is a matter of the frame. -/
theorem execPhCheck_next_phase (s : State) :
    ∃ t, execPhCheck s = .next t ∧ (t.phase = Phase.interpret.code ↔ s.frame.b4 = checksum s.frame) := by
  by_cases h : s.frame.b4 = checksum s.frame
  · exact ⟨_, execPhCheck_passes h, iff_of_true rfl h⟩
  · have hne : Phase.idle.code ≠ Phase.interpret.code := by decide
    exact ⟨_, execPhCheck_fails h, iff_of_false hne h⟩

end

end Machine

open Machine

/-- Settles O31: the accepted byte is the checksum of the first four, which `byte[4]` does not enter. -/
theorem exactlyOneChecksumByteIsAccepted : Obligations.ExactlyOneChecksumByteIsAccepted := by
  refine fun s => ⟨checksum s.frame, checksum_toNat s.frame, fun b => ?_⟩
  by_cases hb : b = checksum s.frame
  · exact ⟨_, execPhCheck_passes hb, fun _ => rfl, fun hne => absurd hb hne⟩
  · exact ⟨_, execPhCheck_fails hb, fun heq => absurd heq hb, fun _ => ⟨rfl, rfl, rfl, rfl⟩⟩

/-- Settles O30, branch by branch. -/
theorem checkTick : Obligations.CheckTick :=
  fun _ => ⟨fun h => execPhCheck_passes (eq_checksum_iff.2 h), fun h => execPhCheck_fails (mt eq_checksum_iff.1 h)⟩

/-- Settles O35: the frame decides the branch of CHECK, TYPE the outcome of INTERPRET, and both together the reading. -/
theorem checkAndInterpretDependOnFrameAndType : Obligations.CheckAndInterpretDependOnFrameAndType := by
  intro a b hframe hstype
  constructor
  · obtain ⟨t, ht, hta⟩ := execPhCheck_next_phase a
    obtain ⟨u, hu, hub⟩ := execPhCheck_next_phase b
    rw [hframe] at hta
    exact ⟨t, u, ht, hu, hta.trans hub.symm⟩
  · cases hk : sensorKind b.stype with
    | some k =>
      refine ⟨_, _, execPhInterpret_reads (hstype ▸ hk), execPhInterpret_reads hk, rfl, rfl, fun _ => ?_⟩
      exact ⟨congrArg (humidity k) hframe, congrArg (temperature k) hframe⟩
    | none =>
      exact ⟨_, _, execPhInterpret_unsupported (hstype ▸ hk), execPhInterpret_unsupported hk, rfl, rfl, nofun⟩

end Sys2Proof
end

section
/-! The interpretation (45_interpretation.md): which kind a TYPE names, the bits of the two readings, and the three outcomes of
INTERPRET. -/

namespace Sys2Proof
namespace Machine

theorem sensorKind_eq_dht11 {v : Word} (h : v = 11#32) : sensorKind v = some .dht11 := if_pos h

theorem sensorKind_eq_dht22 {v : Word} (h : v = 22#32 ∨ v = 2302#32) : sensorKind v = some .dht22 := by
  obtain rfl | rfl := h <;> rfl

theorem sensorKind_eq_none_iff (v : Word) : sensorKind v = none ↔ v ≠ 11#32 ∧ v ≠ 22#32 ∧ v ≠ 2302#32 := by
  rw [← not_iff_not, ← ne_eq, sensorKind_ne_none_iff]
  tauto

/-- The sign of a temperature word, on naturals (R67). -/
theorem sign_eq_decide (w : Half) : w.getLsbD 15 = decide (2 ^ 15 ≤ w.toNat) :=
  (BitVec.msb_eq_getLsbD_last w).symm.trans (BitVec.msb_eq_decide w)

/-- The magnitude of a temperature word, on naturals (R67). -/
theorem magnitude_toNat (w : Half) : (w.extractLsb' 0 15).toNat = w.toNat % 2 ^ 15 := by
  rw [BitVec.extractLsb'_toNat, Nat.shiftRight_zero]

section
variable (f : Frame)

theorem temperature_dht11_sign : (temperature .dht11 f).getLsbD 15 = false := by
  have := f.b2.isLt
  rw [sign_eq_decide, temperature_dht11_toNat, decide_eq_false_iff_not]
  omega

theorem temperature_dht11_magnitude : ((temperature .dht11 f).extractLsb' 0 15).toNat = f.b2.toNat * 10 := by
  have := f.b2.isLt
  rw [magnitude_toNat, temperature_dht11_toNat]
  omega

/-- R167: `HUM` is `{byte[0], byte[1]}`. -/
theorem humidity_dht22_eq_append : humidity .dht22 f = f.b0 ++ f.b1 :=
  BitVec.eq_of_toNat_eq ((humidity_dht22_toNat f).trans (append_toNat f.b0 f.b1).symm)

/-- R167: `TEMP` is `{byte[2], byte[3]}`. -/
theorem temperature_dht22_eq_append : temperature .dht22 f = f.b2 ++ f.b3 :=
  BitVec.eq_of_toNat_eq ((temperature_dht22_toNat f).trans (append_toNat f.b2 f.b3).symm)

theorem temperature_dht22_sign : (temperature .dht22 f).getLsbD 15 = f.b2.getLsbD 7 := by
  rw [temperature_dht22_eq_append, BitVec.getLsbD_append]
  rfl

theorem temperature_dht22_magnitude :
    ((temperature .dht22 f).extractLsb' 0 15).toNat = f.b2.toNat % 128 * 256 + f.b3.toNat := by
  have := f.b3.isLt
  rw [magnitude_toNat, temperature_dht22_toNat]
  omega

end

end Machine

open Machine

/-- Settles O32: TYPE 11 names a DHT11, and tenfold a byte reaches neither the sign bit nor the word's end. -/
theorem interpretDht11 : Obligations.InterpretDht11 :=
  fun s htype => ⟨humidity .dht11 s.frame, temperature .dht11 s.frame,
    humidity_dht11_toNat s.frame, temperature_dht11_sign s.frame, temperature_dht11_magnitude s.frame,
    execPhInterpret_reads (sensorKind_eq_dht11 htype)⟩

/-- Settles O33: TYPE 22 and 2302 name a DHT22, whose readings are its bytes side by side. -/
theorem interpretDht22 : Obligations.InterpretDht22 :=
  fun s htype => ⟨humidity .dht22 s.frame, temperature .dht22 s.frame,
    humidity_dht22_eq_append s.frame, temperature_dht22_eq_append s.frame,
    humidity_dht22_toNat s.frame, temperature_dht22_sign s.frame, temperature_dht22_magnitude s.frame,
    execPhInterpret_reads (sensorKind_eq_dht22 htype)⟩

/-- Settles O34: any other TYPE names no kind, and INTERPRET raises UnsupportedType. -/
theorem interpretUnsupportedKind : Obligations.InterpretUnsupportedKind :=
  fun s h11 h22 h2302 => execPhInterpret_unsupported ((sensorKind_eq_none_iff s.stype).2 ⟨h11, h22, h2302⟩)

end Sys2Proof
end

section
/-! The ends of an operation and the ticks without a meaning (60_exceptions.md): a rule that sets DONE is a success or raises
one error, and a state with the invariant has a next state at every tick but that of a reserved access. -/

namespace Sys2Proof
namespace Machine

/-! ### The ends of an operation -/

/-- R180: the error codes are 1 to 5. -/
theorem ErrorKind.code_toNat_bounds (e : ErrorKind) : 1 ≤ e.code.toNat ∧ e.code.toNat ≤ 5 := by
  cases e <;> decide

theorem execPhCapture_keeps_done {s t : State} (h : execPhCapture s = .next t) : t.done = s.done := by
  rcases execPhCapture_next_cases h with ⟨-, rfl⟩ | ⟨-, rfl⟩ | ⟨-, -, rfl⟩ | ⟨-, -, rfl⟩ <;> rfl

/-- A phase rule sets DONE only by `Succeed`, or by a `raise` on a state with the old reading (R184, R185). -/
theorem phaseInstr_end_cases {p : Phase} {s t : State} (h : exec p.instr s = .next t) (hbefore : s.done = false)
    (hafter : t.done = true) :
    (∃ u : State, t = u.succeed) ∨ ∃ (u : State) (e : ErrorKind), t = u.raise e ∧ u.hum = s.hum ∧ u.temp = s.temp := by
  have hchanged : t.done ≠ s.done := by simp [hbefore, hafter]
  rcases phaseInstr_next_cases h with ⟨-, rfl⟩ | ⟨-, rfl⟩ | ⟨-, rfl⟩ | ⟨-, rfl⟩ | ⟨rfl, -, -⟩ | ⟨-, -, rfl⟩ | ⟨-, rfl⟩ |
    ⟨-, ⟨k, -, rfl⟩ | ⟨-, rfl⟩⟩
  · exact absurd rfl hchanged
  · split at hchanged <;> exact absurd rfl hchanged
  · split at hchanged <;> exact absurd rfl hchanged
  · split at hchanged
    · exact absurd rfl hchanged
    · split at hchanged
      · exact .inr ⟨s, .noResponse, (if_neg ‹_›).trans (if_pos ‹_›), rfl, rfl⟩
      · exact absurd rfl hchanged
  · exact absurd (execPhCapture_keeps_done h) hchanged
  · split at hchanged
    · exact .inr ⟨s.extracted, shortFrameError s.endc, if_pos ‹_›, rfl, rfl⟩
    · exact absurd rfl hchanged
  · split at hchanged
    · exact absurd rfl hchanged
    · exact .inr ⟨s, .checksumMismatch, if_neg ‹_›, rfl, rfl⟩
  · exact .inl ⟨_, rfl⟩
  · exact .inr ⟨s, .unsupportedType, rfl, rfl, rfl⟩

/-! ### A tick that does not decode -/

/-- R41, R42: such a tick is refused, with the decoder's reason. -/
theorem step_of_fetch_error {s : State} {why : Reject} (h : fetch s = .error why) :
    step s = .refused (.reservedAccess why) := by
  rw [step, h]

end Machine

open Machine

/-- Settles O39: RESET and START leave DONE clear, and a phase rule sets it only where it succeeds or raises. -/
theorem endOfAnOperation : Obligations.EndOfAnOperation := by
  intro i s t h hbefore hafter
  rcases exec_next_rule_cases h with ⟨-, rfl⟩ | ⟨v, -, -, rfl⟩ | ⟨p, u, w, -, hu, rfl⟩
  · cases hafter
  · cases hafter
  · have hstype : u.stype = s.stype := (phaseInstr_keepsForeignRegisters hu).stype
    rcases phaseInstr_end_cases hu hbefore hafter with ⟨x, rfl⟩ | ⟨x, e, rfl, hhum, htemp⟩
    · exact ⟨rfl, hstype, .inl ⟨rfl, rfl⟩⟩
    · obtain ⟨hlow, hhigh⟩ := e.code_toNat_bounds
      exact ⟨rfl, hstype, .inr ⟨rfl, hlow, hhigh, hhum, htemp⟩⟩

/-- Settles O49: reset always answers, and without it what decodes runs on an operable state. -/
theorem noTickFaults : Obligations.NoTickFaults := by
  intro s h
  have hoperable : Operable (beginTick s) := { operable_of_stateInv h with }
  cases hrst : s.inputs.rst with
  | true => exact .inl ⟨_, step_of_reset hrst⟩
  | false =>
    have hfetch := fetch_of_no_reset hrst
    cases hd : decodeHop s.inputs.hop with
    | ok i =>
      rw [step_of_fetch (hfetch.trans hd)]
      exact .inl (exec_of_operable hd hoperable)
    | error why => exact .inr ⟨rfl, why, rfl, step_of_fetch_error (hfetch.trans hd)⟩

end Sys2Proof
end

section
/-! Reset, isolation and termination (70_reset_and_hazards.md): the reset tick, what an operation reads of the state and of
the tick's inputs, and how many ticks it still has before it. -/

namespace Sys2Proof
namespace Machine

/-! ### The reset state -/

theorem InResetState.statusWord_eq_zero {s : State} (h : InResetState s) : statusWord s = 0x00000000#32 := by
  simp [statusWord, State.busy, flagWord, h.phase, h.done, h.valid, h.err, h.endc, h.bitcnt]

theorem InResetState.line_released {s : State} (h : InResetState s) : s.outputs.loe = false := by
  simp [State.outputs, h.phase]

/-! ### The ticks ahead of two states -/

theorem TicksLater.inputsAt {k : Nat} {s t : State} (h : TicksLater k s t) (j : Nat) :
    t.inputsAt j = s.inputsAt (k + j) := by
  unfold State.inputsAt
  rw [h.script, List.getElem?_drop]

theorem SameInputsFor.after {k : Nat} {a b t u : State} (h : SameInputsFor (k + 1) a b) (ha : step a = .next t)
    (hb : step b = .next u) : SameInputsFor k t u := by
  intro j hj
  have ht := step_ticksLater ha
  have hu := step_ticksLater hb
  rw [ht.inputsAt, hu.inputsAt, ht.levelAt, hu.levelAt]
  exact h (1 + j) (by omega)

/-- Two quiet scripts with the same levels, through whose next `k` ticks the first state's operation runs. -/
structure SameLineFor (k : Nat) (a b : State) : Prop where
  quietLeft : QuietFor k a
  quietRight : QuietFor k b
  levels : ∀ j < k, a.levelAt j = b.levelAt j
  busy : ∀ j < k, ∃ u, run j a = .next u ∧ u.phase ≠ 0#4

theorem SameLineFor.level_eq {k : Nat} {a b : State} (h : SameLineFor (k + 1) a b) : a.level = b.level := by
  rw [level_eq_levelAt, level_eq_levelAt]
  exact h.levels 0 k.succ_pos

theorem SameLineFor.busy_now {k : Nat} {a b : State} (h : SameLineFor (k + 1) a b) : a.phase ≠ Phase.idle.code := by
  obtain ⟨u, hu, hbusy⟩ := h.busy 0 k.succ_pos
  cases hu
  exact hbusy

theorem SameLineFor.after {k : Nat} {a b t u : State} (h : SameLineFor (k + 1) a b) (ha : step a = .next t)
    (hb : step b = .next u) : SameLineFor k t u := by
  have ht := step_ticksLater ha
  have hu := step_ticksLater hb
  refine ⟨ht.quietFor (Nat.add_comm k 1 ▸ h.quietLeft), hu.quietFor (Nat.add_comm k 1 ▸ h.quietRight),
    fun j hj => ?_, fun j hj => ?_⟩
  · rw [ht.levelAt, hu.levelAt]
    exact h.levels (1 + j) (by omega)
  · rw [← run_succ_of_next ha]
    exact h.busy (j + 1) (Nat.succ_lt_succ hj)

/-! ### States that run alike -/

theorem SameOperation.statusWord_eq {a b : State} (h : SameOperation a b) : statusWord a = statusWord b := by
  simp only [statusWord, State.busy, h.phase, h.done, h.valid, h.err, h.endc, h.bitcnt]

/-- A START takes from the state before it the configuration and the length of the buffer only (R29, R91). -/
theorem start_sameOperation {a b : State} (hcfg : a.cfg = b.cfg) (hentries : a.samples.length = b.samples.length)
    (v : Word) : SameOperation (a.start v) (b.start v) := by
  constructor <;> simp [hcfg, hentries]

theorem toReset_sameOperation {a b : State} (hcfg : a.cfg = b.cfg) : SameOperation a.toReset b.toReset := by
  constructor <;> simp [freeBuffer_length, hcfg]

/-- Two states run the same operation and, granted `known`, show no reading or the same one. The runs below take for `known`
that VALID was clear where they began, so that a reading shown is not the old one. -/
structure RunsAlike (known : Prop) (a b : State) : Prop extends SameOperation a b where
  reading : known → a.valid = true → a.hum = b.hum ∧ a.temp = b.temp

/-- Where the first answers a next state so does the second, and the two run alike. -/
def AnswersAlike (known : Prop) (r r' : Result) : Prop :=
  ∀ t, r = .next t → ∃ u, r' = .next u ∧ RunsAlike known t u

section
variable {known : Prop}

/-- A reading that is shown now, and was not shown at the start, is one the two states have in common. -/
theorem SameOperation.runsAlike {a b : State} (h : SameOperation a b) : RunsAlike (a.valid = false) a b :=
  { h with reading := fun hclear hset => by cases hclear.symm.trans hset }

theorem AnswersAlike.of_next {t u : State} (h : RunsAlike known t u) : AnswersAlike known (.next t) (.next u) := by
  rintro _ ⟨⟩
  exact ⟨u, rfl, h⟩

theorem AnswersAlike.mapNext {r r' : Result} {f g : State → State} (h : AnswersAlike known r r')
    (hfg : ∀ t u, RunsAlike known t u → RunsAlike known (f t) (g u)) :
    AnswersAlike known (mapNext f r) (mapNext g r') := by
  intro _ ht
  obtain ⟨t, hr, rfl⟩ := mapNext_eq_next.1 ht
  obtain ⟨u, hr', halike⟩ := h t hr
  exact ⟨g u, mapNext_eq_next.2 ⟨u, hr', rfl⟩, hfg t u halike⟩

/-- A test that comes out the same on both sides. -/
theorem RunsAlike.ite {c d : Prop} [Decidable c] [Decidable d] {t t' u u' : State} (hcd : c ↔ d)
    (hthen : c → RunsAlike known t u) (helse : ¬ c → RunsAlike known t' u') :
    RunsAlike known (if c then t else t') (if d then u else u') := by
  by_cases hc : c
  · rw [if_pos hc, if_pos (hcd.1 hc)]
    exact hthen hc
  · rw [if_neg hc, if_neg (mt hcd.2 hc)]
    exact helse hc

/-! ### The operations the instructions share -/

section
variable {a b : State} (h : RunsAlike known a b)
include h

/-- An operation does not read the read port (R29). -/
theorem RunsAlike.with_hrdata (w x : Option Word) :
    RunsAlike known { a with hrdata := w } { b with hrdata := x } := { h with }

theorem beginTick_alike : RunsAlike known (beginTick a) (beginTick b) := { h with }

theorem RunsAlike.goto (p : Phase) : RunsAlike known (a.goto p) (b.goto p) := { h with phase := rfl }

theorem RunsAlike.raise (e : ErrorKind) : RunsAlike known (a.raise e) (b.raise e) :=
  { h with phase := rfl, err := rfl, valid := rfl, done := rfl, reading := fun _ => nofun }

theorem RunsAlike.start (v : Word) : RunsAlike known (a.start v) (b.start v) :=
  { start_sameOperation h.cfg h.entries v with reading := fun _ => nofun }

theorem RunsAlike.toReset : RunsAlike known a.toReset b.toReset :=
  { toReset_sameOperation h.cfg with reading := fun _ => nofun }

/-! ### The phase rules -/

theorem execPhWakeHigh_alike : AnswersAlike known (execPhWakeHigh a) (execPhWakeHigh b) :=
  .of_next (.ite (by rw [h.hold, h.cfg]) (fun _ => { h with phase := rfl, hold := rfl })
    (fun _ => { h with hold := congrArg Nat.succ h.hold }))

theorem execPhWakeLow_alike : AnswersAlike known (execPhWakeLow a) (execPhWakeLow b) :=
  .of_next (.ite (by rw [h.hold, h.cfg]) (fun _ => { h with phase := rfl, hold := rfl, wcnt := rfl })
    (fun _ => { h with hold := congrArg Nat.succ h.hold }))

theorem execPhWaitResp_alike (hl : a.lin = b.lin) : AnswersAlike known (execPhWaitResp a) (execPhWaitResp b) :=
  .of_next (.ite (by rw [hl])
    (fun _ => { h with phase := rfl, last := rfl, cnt := rfl, n := rfl, recorded := rfl })
    (fun _ => .ite (by rw [h.wcnt, h.cfg]) (fun _ => h.raise .noResponse)
      (fun _ => { h with wcnt := congrArg Nat.succ h.wcnt })))

theorem pulseGoesOn_alike : RunsAlike known a.pulseGoesOn b.pulseGoesOn :=
  .ite (by rw [h.cnt, h.cfg]) (fun _ => { h with phase := rfl, endc := rfl })
    (fun _ => { h with cnt := congrArg Nat.succ h.cnt })

/-- The new entry joins the recorded ones, which are all an operation reads of the buffer. -/
theorem record_alike (hl : a.lin = b.lin) (hn : a.n < a.samples.length) : RunsAlike known a.record b.record :=
  { h with
    last := hl
    cnt := rfl
    n := congrArg Nat.succ h.n
    recorded := by
      have hn' : b.n < b.samples.length := h.n ▸ h.entries ▸ hn
      rw [record_take a hn, record_take b hn', h.recorded, h.last, h.cnt]
    entries := by rw [record_buffer_length, record_buffer_length, h.entries] }

theorem pulseEnds_alike (hl : a.lin = b.lin) (hn : a.n < a.samples.length) :
    RunsAlike known a.pulseEnds b.pulseEnds :=
  have hrecord := record_alike h hl hn
  .ite (by rw [h.n, h.cfg]) (fun _ => { hrecord with phase := rfl, endc := rfl }) (fun _ => hrecord)

theorem execPhCapture_alike (hl : a.lin = b.lin) : AnswersAlike known (execPhCapture a) (execPhCapture b) := by
  intro t ht
  obtain ⟨hroom, rfl⟩ := execPhCapture_eq_next.1 ht
  refine ⟨_, execPhCapture_eq_next.2 ⟨by rwa [← h.n, ← h.entries, ← hl, ← h.last], rfl⟩, ?_⟩
  exact .ite (by rw [hl, h.last]) (fun _ => pulseGoesOn_alike h)
    (fun hedge => pulseEnds_alike h hl (hroom.resolve_right hedge))

theorem extracted_alike : RunsAlike known a.extracted b.extracted :=
  { h with
    frame := by rw [State.extracted_frame, State.extracted_frame, h.cfg, h.recorded]
    bitcnt := by rw [State.extracted_bitcnt, State.extracted_bitcnt, h.cfg, h.recorded] }

theorem execPhExtract_alike : AnswersAlike known (execPhExtract a) (execPhExtract b) := by
  intro t ht
  obtain ⟨hentries, rfl⟩ := execPhExtract_eq_next.1 ht
  refine ⟨_, execPhExtract_eq_next.2 ⟨h.n ▸ h.entries ▸ hentries, rfl⟩, ?_⟩
  exact .ite (by rw [h.cfg, h.recorded]) (fun _ => h.endc ▸ (extracted_alike h).raise _)
    (fun _ => (extracted_alike h).goto .check)

theorem execPhCheck_alike : AnswersAlike known (execPhCheck a) (execPhCheck b) :=
  .of_next (.ite (by rw [h.frame]) (fun _ => h.goto .interpret) (fun _ => h.raise .checksumMismatch))

/-- The new reading is made from the frame and TYPE alone. -/
theorem execPhInterpret_alike : AnswersAlike known (execPhInterpret a) (execPhInterpret b) := by
  cases hk : sensorKind b.stype with
  | some k =>
    rw [execPhInterpret_reads (h.stype ▸ hk), execPhInterpret_reads hk]
    exact .of_next
      { h with
        phase := rfl
        err := rfl
        valid := rfl
        done := rfl
        reading := fun _ _ => ⟨congrArg (humidity k) h.frame, congrArg (temperature k) h.frame⟩ }
  | none =>
    rw [execPhInterpret_unsupported (h.stype ▸ hk), execPhInterpret_unsupported hk]
    exact .of_next (h.raise .unsupportedType)

/-- Of the tick's inputs the phase rule reads the level only. -/
theorem phaseStep_alike (hl : a.lin = b.lin) : AnswersAlike known (phaseStep a) (phaseStep b) := by
  intro t ht
  obtain ⟨p, hp, hrule⟩ := phaseStep_next_cases ht
  rw [phaseStep_of_code (h.phase ▸ hp)]
  cases p with
  | idle =>
    cases hrule
    exact ⟨b, rfl, h⟩
  | wakeHigh => exact execPhWakeHigh_alike h t hrule
  | wakeLow => exact execPhWakeLow_alike h t hrule
  | waitResp => exact execPhWaitResp_alike h hl t hrule
  | capture => exact execPhCapture_alike h hl t hrule
  | extract => exact execPhExtract_alike h t hrule
  | check => exact execPhCheck_alike h t hrule
  | interpret => exact execPhInterpret_alike h t hrule

/-! ### A tick with the same inputs -/

theorem startTick_alike (hl : a.lin = b.lin) (v : Word) : AnswersAlike known (startTick v a) (startTick v b) := by
  by_cases hidle : a.phase = Phase.idle.code
  · rw [startTick, startTick, if_pos hidle, if_pos (h.phase ▸ hidle)]
    exact .of_next (h.start v)
  · rw [startTick, startTick, if_neg hidle, if_neg (h.phase ▸ hidle)]
    exact phaseStep_alike h hl

/-- The words read may differ, but nothing reads the read port. -/
theorem readTick_alike (hl : a.lin = b.lin) (word : State → Word) :
    AnswersAlike known (readTick word a) (readTick word b) :=
  (phaseStep_alike h hl).mapNext fun _ _ htu => htu.with_hrdata _ _

theorem exec_alike {hop : HostOp} {i : Instr} (hd : decodeHop hop = .ok i) (hl : a.lin = b.lin) :
    AnswersAlike known (exec i a) (exec i b) := by
  rcases exec_of_decodeHop hd with ⟨v, hi⟩ | ⟨word, hi⟩ | hi <;> rw [hi]
  · exact startTick_alike h hl v
  · exact readTick_alike h hl word
  · exact phaseStep_alike h hl

theorem step_alike {k : Nat} (hin : SameInputsFor (k + 1) a b) : AnswersAlike known (step a) (step b) := by
  obtain ⟨hrst, hhop, hlevel⟩ := hin 0 k.succ_pos
  rw [← inputs_eq_inputsAt, ← inputs_eq_inputsAt] at hrst hhop
  rw [← level_eq_levelAt, ← level_eq_levelAt] at hlevel
  cases hr : a.inputs.rst with
  | true =>
    rw [step_of_reset hr, step_of_reset (hrst ▸ hr)]
    exact .of_next (beginTick_alike h).toReset
  | false =>
    intro t ht
    obtain ⟨i, hfetch, hexec⟩ := step_next_cases ht
    have hfetch' : fetch b = .ok i := by rw [← hfetch, fetch, fetch, hrst, hhop]
    rw [step_of_fetch hfetch']
    exact exec_alike (beginTick_alike h) ((fetch_of_no_reset hr).symm.trans hfetch) hlevel t hexec

end

/-! ### A tick of a running operation -/

/-- While an operation runs, whatever the host does in a quiet tick, it reaches no more of the phase rule's answer than the
read port (R92). -/
theorem exec_while_busy_eq_mapNext {hop : HostOp} {i : Instr} {s : State} (hd : decodeHop hop = .ok i)
    (hbusy : s.phase ≠ Phase.idle.code) :
    ∃ port : State → Option Word, exec i s = mapNext (fun t => { t with hrdata := port t }) (phaseStep s) := by
  have hkeep : phaseStep s = mapNext (fun t => { t with hrdata := t.hrdata }) (phaseStep s) := by
    cases phaseStep s <;> rfl
  rcases exec_of_decodeHop hd with ⟨v, hi⟩ | ⟨word, hi⟩ | hi <;> rw [hi]
  · exact ⟨State.hrdata, (if_neg hbusy).trans hkeep⟩
  · exact ⟨fun _ => some (word s), rfl⟩
  · exact ⟨State.hrdata, hkeep⟩

theorem step_alike_while_busy {k : Nat} {a b : State} (h : RunsAlike known a b) (hline : SameLineFor (k + 1) a b) :
    AnswersAlike known (step a) (step b) := by
  have hbusy := hline.busy_now
  obtain ⟨i, hfa, hda⟩ := fetch_of_quiet hline.quietLeft
  obtain ⟨j, hfb, hdb⟩ := fetch_of_quiet hline.quietRight
  obtain ⟨port, hi⟩ := exec_while_busy_eq_mapNext (s := beginTick a) hda hbusy
  obtain ⟨port', hj⟩ := exec_while_busy_eq_mapNext (s := beginTick b) hdb (h.phase ▸ hbusy)
  rw [step_of_fetch hfa, step_of_fetch hfb, hi, hj]
  exact (phaseStep_alike (beginTick_alike h) hline.level_eq).mapNext fun _ _ htu => htu.with_hrdata _ _

/-! ### Runs -/

/-- A condition on the ticks ahead under which one tick is alike, and which holds on after it, makes the runs alike. -/
theorem run_alike {Ahead : Nat → State → State → Prop}
    (htick : ∀ {k a b}, Ahead (k + 1) a b → RunsAlike known a b → AnswersAlike known (step a) (step b))
    (hafter : ∀ {k a b t u}, Ahead (k + 1) a b → step a = .next t → step b = .next u → Ahead k t u)
    {k : Nat} {a b : State} (hahead : Ahead k a b) (h : RunsAlike known a b) :
    AnswersAlike known (run k a) (run k b) := by
  induction k generalizing a b with
  | zero => exact .of_next h
  | succ k ih =>
    intro t ht
    obtain ⟨a', ha, hrun⟩ := run_succ_next_cases ht
    obtain ⟨b', hb, h'⟩ := htick hahead h a' ha
    rw [run_succ_of_next hb]
    exact ih (hafter hahead ha hb) h' t hrun

/-- What `AnswersAlike` says in the words of the obligations. -/
theorem AnswersAlike.outcome {r r' : Result} {t : State} (h : AnswersAlike known r r') (ht : r = .next t) :
    ∃ u, r' = .next u ∧ SameOperation t u ∧ statusWord t = statusWord u ∧
      (known → t.valid = true → t.hum = u.hum ∧ t.temp = u.temp) := by
  obtain ⟨u, hu, halike⟩ := h t ht
  exact ⟨u, hu, halike.toSameOperation, halike.statusWord_eq, halike.reading⟩

end

/-! ### How long an operation still takes -/

/-- The most ticks before the end of an operation in the phase `p` (R227): the polls the phase may still make, all those of the
phases after it, and one tick each for EXTRACT, CHECK and INTERPRET. -/
def ticksLeft (p : Phase) (s : State) : Nat :=
  match p with
  | .idle => 0
  | .wakeHigh => (s.cfg.wakeHighTicks - s.hold) + s.cfg.wakeLowTicks + s.cfg.respCap + s.cfg.maxEdges * s.cfg.edgeCap + 3
  | .wakeLow => (s.cfg.wakeLowTicks - s.hold) + s.cfg.respCap + s.cfg.maxEdges * s.cfg.edgeCap + 3
  | .waitResp => (s.cfg.respCap - s.wcnt) + s.cfg.maxEdges * s.cfg.edgeCap + 3
  | .capture => ((s.cfg.maxEdges - s.n) * s.cfg.edgeCap - s.cnt) + 3
  | .extract => 3
  | .check => 2
  | .interpret => 1

theorem ticksLeft_le_operationBound (p : Phase) (s : State) : ticksLeft p s ≤ operationBound s.cfg := by
  have hcapture : (s.cfg.maxEdges - s.n) * s.cfg.edgeCap ≤ s.cfg.maxEdges * s.cfg.edgeCap :=
    Nat.mul_le_mul_right _ (Nat.sub_le _ _)
  cases p <;> simp only [ticksLeft, operationBound] <;> omega

theorem ticksLeft_pos {p : Phase} (hbusy : p ≠ .idle) (s : State) : 0 < ticksLeft p s := by
  cases p with
  | idle => exact absurd rfl hbusy
  | wakeHigh | wakeLow | waitResp | capture | extract | check | interpret => exact Nat.succ_pos _

/-- CAPTURE counts towards the cap, uses up one sample of the budget, or ends. -/
theorem execPhCapture_ticksLeft {s t : State} (h : StateInv s) (hp : s.phase = Phase.capture.code)
    (ht : execPhCapture s = .next t) : ∃ q : Phase, t.phase = q.code ∧ ticksLeft q t < ticksLeft .capture s := by
  have hcnt := h.cnt
  obtain ⟨m, hm⟩ : ∃ m, s.cfg.maxEdges - s.n = m + 1 :=
    Nat.exists_eq_succ_of_ne_zero (Nat.sub_ne_zero_of_lt (h.nCapture hp))
  have hleft : ticksLeft .capture s = m * s.cfg.edgeCap + s.cfg.edgeCap - s.cnt + 3 := by
    rw [ticksLeft, hm, Nat.succ_mul]
  have hends : ticksLeft .extract t < ticksLeft .capture s := by
    rw [hleft, ticksLeft]
    omega
  rcases execPhCapture_next_cases ht with ⟨-, rfl⟩ | ⟨-, rfl⟩ | ⟨-, -, rfl⟩ | ⟨-, -, rfl⟩
  · exact ⟨.extract, rfl, hends⟩
  · refine ⟨.capture, hp, ?_⟩
    simp only [ticksLeft, hm, Nat.succ_mul]
    omega
  · exact ⟨.extract, rfl, hends⟩
  · refine ⟨.capture, hp, ?_⟩
    have hm' : s.cfg.maxEdges - (s.n + 1) = m := by omega
    rw [hleft, ticksLeft, State.record_cfg, State.record_n, State.record_cnt, hm']
    omega

/-- The rule of every phase but IDLE brings the end of the operation nearer. -/
theorem phaseRule_ticksLeft {p : Phase} {s t : State} (h : StateInv s) (hp : s.phase = p.code) (hbusy : p ≠ .idle)
    (ht : exec p.instr s = .next t) : ∃ q : Phase, t.phase = q.code ∧ ticksLeft q t < ticksLeft p s := by
  rcases phaseInstr_next_cases ht with ⟨rfl, -⟩ | ⟨rfl, rfl⟩ | ⟨rfl, rfl⟩ | ⟨rfl, rfl⟩ | ⟨rfl, -⟩ | ⟨rfl, -, rfl⟩ |
    ⟨rfl, rfl⟩ | ⟨rfl, ⟨k, -, rfl⟩ | ⟨-, rfl⟩⟩
  · exact absurd rfl hbusy
  · have hhold := h.holdHigh hp
    split
    · exact ⟨.wakeLow, rfl, by simp only [ticksLeft, State.goto_cfg]; omega⟩
    · exact ⟨.wakeHigh, hp, by simp only [ticksLeft]; omega⟩
  · have hhold := h.holdLow hp
    split
    · exact ⟨.waitResp, rfl, by simp only [ticksLeft, State.goto_cfg]; omega⟩
    · exact ⟨.wakeLow, hp, by simp only [ticksLeft]; omega⟩
  · have hwcnt := h.wcnt
    split
    · exact ⟨.capture, rfl, by simp only [ticksLeft, State.goto_cfg, Nat.sub_zero]; omega⟩
    · split
      · exact ⟨.idle, rfl, ticksLeft_pos hbusy s⟩
      · exact ⟨.waitResp, hp, by simp only [ticksLeft]; omega⟩
  · exact execPhCapture_ticksLeft h hp ht
  · split
    · exact ⟨.idle, rfl, ticksLeft_pos hbusy s⟩
    · exact ⟨.check, rfl, Nat.lt_succ_self 2⟩
  · split
    · exact ⟨.interpret, rfl, Nat.lt_succ_self 1⟩
    · exact ⟨.idle, rfl, ticksLeft_pos hbusy s⟩
  · exact ⟨.idle, rfl, ticksLeft_pos hbusy s⟩
  · exact ⟨.idle, rfl, ticksLeft_pos hbusy s⟩

/-- One quiet tick of a running operation brings its end nearer, or is its end. -/
theorem run_one_while_busy {p : Phase} {s : State} (h : StateInv s) (hp : s.phase = p.code) (hbusy : p ≠ .idle)
    (hq : QuietFor 1 s) : ∃ (t : State) (q : Phase), run 1 s = .next t ∧ t.phase = q.code ∧
      ticksLeft q t < ticksLeft p s ∧ (t.phase = Phase.idle.code → t.done = true) := by
  have hbegin : StateInv (beginTick s) := h.with_inputs _ _ _ _
  obtain ⟨u, hu⟩ := phaseStep_of_operable (operable_of_stateInv hbegin)
  have hrule : exec p.instr (beginTick s) = .next u := (phaseStep_of_code (s := beginTick s) hp).symm.trans hu
  obtain ⟨q, hphase, hleft⟩ := phaseRule_ticksLeft hbegin hp hbusy hrule
  obtain ⟨w, hrun⟩ := run_succ_while_busy (k := 0) hq rfl hp hbusy hrule
  exact ⟨_, q, hrun, hphase, hleft, fun hidle => (phaseInstr_to_idle hrule hidle).resolve_left (busy_of_code hp hbusy)⟩

/-- An operation ends before its ticks are used up. -/
theorem run_to_end {m : Nat} {p : Phase} {s : State} (h : StateInv s) (hp : s.phase = p.code)
    (hended : s.phase = Phase.idle.code → s.done = true) (hleft : ticksLeft p s ≤ m) (hq : QuietFor m s) :
    ∃ k t, k ≤ m ∧ run k s = .next t ∧ t.phase = Phase.idle.code ∧ t.done = true := by
  induction m generalizing p s with
  | zero =>
    obtain rfl : p = .idle := by_contra fun hbusy => (ticksLeft_pos hbusy s).not_ge hleft
    exact ⟨0, s, le_rfl, rfl, hp, hended hp⟩
  | succ m ih =>
    by_cases hidle : p = .idle
    · subst hidle
      exact ⟨0, s, Nat.zero_le _, rfl, hp, hended hp⟩
    · obtain ⟨t, q, hrun, hphase, hnearer, hended'⟩ := run_one_while_busy h hp hidle (quiet_mono (by omega) hq)
      have hqt : QuietFor m t := (run_ticksLater hrun).quietFor (Nat.add_comm m 1 ▸ hq)
      obtain ⟨k, u, hk, hu, hend⟩ := ih (run_keeps_stateInv h hrun) hphase hended' (by omega) hqt
      exact ⟨1 + k, u, by omega, (run_add hrun k).trans hu, hend⟩

end Machine

open Machine

/-- Settles O50: each tick brings the end nearer, and no phase has more ticks before it than the bound. -/
theorem everyOperationEnds : Obligations.EveryOperationEnds := by
  intro s h hbusy hq
  obtain ⟨p, hp⟩ := legal_phase_is_named h.phaseLegal
  exact run_to_end h hp (fun hidle => absurd hidle hbusy) (ticksLeft_le_operationBound p s) hq

/-- Settles O52: a tick with the same inputs keeps the agreement of the two states. -/
theorem sameInputsGiveTheSameOutcome : Obligations.SameInputsGiveTheSameOutcome :=
  fun _ _ _ _ h hin ht =>
    (run_alike (fun hahead h => step_alike h hahead) SameInputsFor.after hin h.runsAlike).outcome ht

/-- Settles O53: while an operation runs a tick is the phase rule, and that reads the level only. -/
theorem outcomeDependsOnTheLineAlone : Obligations.OutcomeDependsOnTheLineAlone :=
  fun _ _ _ _ h hqa hqb hlevels hbusy ht =>
    (run_alike (fun hahead h => step_alike_while_busy h hahead) SameLineFor.after ⟨hqa, hqb, hlevels, hbusy⟩
      h.runsAlike).outcome ht

/-- Settles O51: both STARTs are accepted, with the same value. -/
theorem startForgetsTheHistory : Obligations.StartForgetsTheHistory := by
  intro a b i ha hb hi hcfg hentries
  obtain ⟨v, hv⟩ : ∃ v, startValue i = some v := by
    rcases hi with rfl | rfl | rfl | ⟨v, rfl⟩ <;> exact ⟨_, rfl⟩
  exact ⟨_, _, exec_start_in_idle hv ha, exec_start_in_idle hv hb, start_sameOperation hcfg hentries v⟩

/-- Settles O9: RESET answers the reset state, and a tick with reset decodes to RESET whatever its host operation. -/
theorem resetPinHasPriority : Obligations.ResetPinHasPriority := by
  refine ⟨fun s => ⟨s.toReset, rfl, toReset_inResetState s, ?_⟩, fun s hrst => ?_⟩
  · exact ⟨(toReset_inResetState s).line_released, rfl, freeBuffer_length _ _, rfl, rfl, rfl⟩
  · have hreset := toReset_inResetState (beginTick s)
    exact ⟨_, step_of_reset hrst, rfl, hreset, hreset.statusWord_eq_zero, hreset.line_released⟩

end Sys2Proof
end
